-- ==== Sys2Proof/Word.lean ====
section
/-! DEFINITION. The words of the machine: register values, instruction words, physical addresses, bytes and register
numbers, with the widths the spec gives them (00_scope.md R11, R13). -/

namespace Sys2Proof

/-- A register, PC or virtual-address value: `XLEN` = 64 bits (R11, R13). -/
abbrev Word := BitVec 64

/-- An instruction word or a page-table entry: 32 bits (R11 `ILEN`, R92). -/
abbrev Word32 := BitVec 32

/-- A physical address: `PA_BITS` = 32 bits (R11, R60). -/
abbrev PAddr := BitVec 32

/-- The smallest addressable unit of the backing store (R46). -/
abbrev Byte := BitVec 8

/-- The index of a general register, `x0` to `x31` (R20, R121). -/
abbrev Reg := BitVec 5

/-- All ones on 64 bits, the divide sentinel's value (R201). -/
abbrev ones64 : Word := 0xFFFFFFFFFFFFFFFF#64

/-- The most negative 64-bit value (R201). -/
abbrev min64 : Word := 0x8000000000000000#64

/-- All ones on 32 bits (R201). -/
abbrev ones32 : Word32 := 0xFFFFFFFF#32

/-- The most negative 32-bit value (R201). -/
abbrev min32 : Word32 := 0x80000000#32

end Sys2Proof
end

