-- ==== Sys2Proof/Config.lean ====
section
/-! DEFINITION. What one implementation of the block fixes (00_scope.md R11): the sizes the source fixes, the OPEN
parameters as one record of plain data (so that every statement over all states is a statement over all parameter values,
assumption 1), the launch parameters (assumptions 2 to 5), and the free values of the spec: the oracles `MemLatency` and
`VictimTie` and the bytes no harness loaded. A free value is an opaque constant: nothing can evaluate it. -/

namespace Sys2Proof

/-- `DCACHE_POLICY` (R11, R103, R104). -/
inductive CachePolicy where
  | writeBack
  | writeThrough
  deriving DecidableEq, Repr

/-- `BP_POLICY` (R11, R247, R248). -/
inductive BpPolicy where
  | counter2
  | btfnt
  deriving DecidableEq, Repr

/-- `BP_UPDATE_INDEX` (R11, R246). -/
inductive BpUpdateIndex where
  | target
  | branch
  deriving DecidableEq, Repr

/-- `BP_UPDATE_ON` (R11, R249). -/
inductive BpUpdateOn where
  | taken
  | everyControl
  deriving DecidableEq, Repr

/-- `PORT_SHARING` (R11, R63, R64). -/
inductive PortSharing where
  | perSide
  | global
  deriving DecidableEq, Repr

/-- What a fill in progress does in a cycle in which it finds the block's one call spent, which can happen only under
`PORT_SHARING = global`: two rules of the spec give it different statuses, and the model has both readings
(assumption 11). -/
inductive SpentFill where
  /-- The status stays `IFill` (R64 "makes no call that cycle and keeps its status"). -/
  | keep
  /-- The status becomes `IDeferred` (the pseudocode of R338). -/
  | defer
  deriving DecidableEq, Repr

/-- The three calls of the backing store's interface (R61). -/
inductive CallKind where
  | read
  | write
  | status
  deriving DecidableEq, Repr

/-- The parameters of R11 that the source leaves OPEN, `PMEM_SIZE`, and the model's own parameter `spentFill`
(assumption 11). -/
structure Params where
  icacheRows : Nat
  icacheWays : Nat
  dcacheRows : Nat
  dcacheWays : Nat
  dcachePolicy : CachePolicy
  bpPolicy : BpPolicy
  bpUpdateIndex : BpUpdateIndex
  bpUpdateOn : BpUpdateOn
  bpIndexShift : Nat
  portSharing : PortSharing
  exForward : Bool
  x0Hardwired : Bool
  x0ForwardQuirk : Bool
  divSentinelUnsigned : Bool
  pmemSize : Nat
  spentFill : SpentFill
  deriving DecidableEq, Repr

/-- A power of two, at least 1 (R11, the row counts). -/
def isPowerOfTwo (n : Nat) : Bool := n == 2 ^ n.log2

/-- The bounds R11 sets on the parameters: row counts are powers of two, way counts 1 or 2, and the backing store fits in
the 32-bit physical space (R60). -/
def Params.wf (p : Params) : Bool :=
  isPowerOfTwo p.icacheRows && isPowerOfTwo p.dcacheRows
    && (p.icacheWays == 1 || p.icacheWays == 2) && (p.dcacheWays == 1 || p.dcacheWays == 2)
    && decide (p.pmemSize ≤ 2 ^ 32)

namespace Config

/-- Bytes of an instruction-cache line, `ILINE` (R11). -/
abbrev iline : Nat := 16

/-- Bytes of a data-cache line, `DLINE` (R11). -/
abbrev dline : Nat := 8

/-- DESIGN CHOICE (assumption 1). The parameters of `State.reset`: the defaults of R11 where it has them, and the start
state S0 of 95_test_vectors.md section 0 for the sizes and policies the source leaves OPEN; `spentFill` as R338 has it. -/
def defaults : Params where
  icacheRows := 4
  icacheWays := 1
  dcacheRows := 4
  dcacheWays := 1
  dcachePolicy := .writeBack
  bpPolicy := .counter2
  bpUpdateIndex := .target
  bpUpdateOn := .taken
  bpIndexShift := 0
  portSharing := .perSide
  exForward := false
  x0Hardwired := true
  x0ForwardQuirk := false
  divSentinelUnsigned := true
  pmemSize := 0x20000
  spentFill := .defer

/-- DESIGN CHOICE (assumption 2). `RESET_PC` of `State.reset`, as S0 has it. -/
def resetPc : Word := 0x1000#64

/-- DESIGN CHOICE (assumption 3). `PTBR` of `State.reset`, as S0 has it. -/
def resetPtbr : PAddr := 0x10000#32

/-- DESIGN CHOICE (assumption 4). Every register of `INIT_REGS` in `State.reset`, as S0 has it. -/
def resetReg : Word := 0#64

/-- Free value: the oracle `MemLatency` (R62). Does the backing-store call number `n`, of this kind and at this address,
complete in the cycle it is made? (assumption 6) -/
opaque memLatency : (kind : CallKind) → (address : Nat) → (n : Nat) → Bool

/-- Free value: the oracle `VictimTie` (R98). Draw number `n` among equally preferred ways (assumption 7). -/
opaque victimTie : (n : Nat) → Nat

/-- Free value: the byte at a physical address the harness did not load (R46, I8; assumption 5). -/
opaque unloadedByte : (address : Nat) → Byte

end Config

end Sys2Proof
end

