-- ==== Sys2Proof/Syntax.lean ====
section
/-! DEFINITION. The instructions of the block: one constructor per row of opcode_table.json, with the operands its word
carries (30_encoding.md R121 to R138). Branch and jump offsets carry their always-zero bit 0 (R132, R134), which
`Instr.wf` checks. The three no-op classes keep bits [31:7] of their word, which the block ignores (R141). -/

namespace Sys2Proof

inductive Instr where
  /-- `ZERO` (R284). -/
  | zero
  /-- `ADDI` (R151). -/
  | addi (rd rs1 : Reg) (imm : BitVec 12)
  /-- `SLTI` (R152). -/
  | slti (rd rs1 : Reg) (imm : BitVec 12)
  /-- `SLTIU` (R153). -/
  | sltiu (rd rs1 : Reg) (imm : BitVec 12)
  /-- `XORI` (R154). -/
  | xori (rd rs1 : Reg) (imm : BitVec 12)
  /-- `ORI` (R155). -/
  | ori (rd rs1 : Reg) (imm : BitVec 12)
  /-- `ANDI` (R156). -/
  | andi (rd rs1 : Reg) (imm : BitVec 12)
  /-- `SLLI` (R157). -/
  | slli (rd rs1 : Reg) (shamt : BitVec 6)
  /-- `SRLI` (R158). -/
  | srli (rd rs1 : Reg) (shamt : BitVec 6)
  /-- `SRAI` (R159). -/
  | srai (rd rs1 : Reg) (shamt : BitVec 6)
  /-- `LUI` (R160). -/
  | lui (rd : Reg) (imm20 : BitVec 20)
  /-- `AUIPC` (R161). -/
  | auipc (rd : Reg) (imm20 : BitVec 20)
  /-- `ADD` (R162). -/
  | add (rd rs1 rs2 : Reg)
  /-- `SUB` (R163). -/
  | sub (rd rs1 rs2 : Reg)
  /-- `SLL` (R164). -/
  | sll (rd rs1 rs2 : Reg)
  /-- `SLT` (R165). -/
  | slt (rd rs1 rs2 : Reg)
  /-- `SLTU` (R166). -/
  | sltu (rd rs1 rs2 : Reg)
  /-- `XOR` (R167). -/
  | xor (rd rs1 rs2 : Reg)
  /-- `SRL` (R168). -/
  | srl (rd rs1 rs2 : Reg)
  /-- `SRA` (R169). -/
  | sra (rd rs1 rs2 : Reg)
  /-- `OR` (R170). -/
  | or (rd rs1 rs2 : Reg)
  /-- `AND` (R171). -/
  | and (rd rs1 rs2 : Reg)
  /-- `ADDIW` (R173). -/
  | addiw (rd rs1 : Reg) (imm : BitVec 12)
  /-- `SLLIW` (R174). -/
  | slliw (rd rs1 : Reg) (shamt : BitVec 5)
  /-- `SRLIW` (R175). -/
  | srliw (rd rs1 : Reg) (shamt : BitVec 5)
  /-- `SRAIW` (R176). -/
  | sraiw (rd rs1 : Reg) (shamt : BitVec 5)
  /-- `ADDW` (R177). -/
  | addw (rd rs1 rs2 : Reg)
  /-- `SUBW` (R178). -/
  | subw (rd rs1 rs2 : Reg)
  /-- `SLLW` (R179). -/
  | sllw (rd rs1 rs2 : Reg)
  /-- `SRLW` (R180). -/
  | srlw (rd rs1 rs2 : Reg)
  /-- `SRAW` (R181). -/
  | sraw (rd rs1 rs2 : Reg)
  /-- `MUL` (R203). -/
  | mul (rd rs1 rs2 : Reg)
  /-- `MULH` (R204). -/
  | mulh (rd rs1 rs2 : Reg)
  /-- `MULHSU` (R205). -/
  | mulhsu (rd rs1 rs2 : Reg)
  /-- `MULHU` (R206). -/
  | mulhu (rd rs1 rs2 : Reg)
  /-- `MULW` (R207). -/
  | mulw (rd rs1 rs2 : Reg)
  /-- `DIV` (R208). -/
  | div (rd rs1 rs2 : Reg)
  /-- `DIVU` (R209). -/
  | divu (rd rs1 rs2 : Reg)
  /-- `REM` (R210). -/
  | rem (rd rs1 rs2 : Reg)
  /-- `REMU` (R211). -/
  | remu (rd rs1 rs2 : Reg)
  /-- `DIVW` (R212). -/
  | divw (rd rs1 rs2 : Reg)
  /-- `DIVUW` (R213). -/
  | divuw (rd rs1 rs2 : Reg)
  /-- `REMW` (R214). -/
  | remw (rd rs1 rs2 : Reg)
  /-- `REMUW` (R215). -/
  | remuw (rd rs1 rs2 : Reg)
  /-- `BEQ` (R231). -/
  | beq (rs1 rs2 : Reg) (offset : BitVec 13)
  /-- `BNE` (R232). -/
  | bne (rs1 rs2 : Reg) (offset : BitVec 13)
  /-- `BLT` (R233). -/
  | blt (rs1 rs2 : Reg) (offset : BitVec 13)
  /-- `BGE` (R234). -/
  | bge (rs1 rs2 : Reg) (offset : BitVec 13)
  /-- `BLTU` (R235). -/
  | bltu (rs1 rs2 : Reg) (offset : BitVec 13)
  /-- `BGEU` (R236). -/
  | bgeu (rs1 rs2 : Reg) (offset : BitVec 13)
  /-- `JAL` (R237). -/
  | jal (rd : Reg) (offset : BitVec 21)
  /-- `JALR` (R238). -/
  | jalr (rd rs1 : Reg) (imm : BitVec 12)
  /-- `LB` (R264). -/
  | lb (rd rs1 : Reg) (imm : BitVec 12)
  /-- `LH` (R265). -/
  | lh (rd rs1 : Reg) (imm : BitVec 12)
  /-- `LW` (R266). -/
  | lw (rd rs1 : Reg) (imm : BitVec 12)
  /-- `LD` (R267). -/
  | ld (rd rs1 : Reg) (imm : BitVec 12)
  /-- `LBU` (R268). -/
  | lbu (rd rs1 : Reg) (imm : BitVec 12)
  /-- `LHU` (R269). -/
  | lhu (rd rs1 : Reg) (imm : BitVec 12)
  /-- `LWU` (R270). -/
  | lwu (rd rs1 : Reg) (imm : BitVec 12)
  /-- `SB` (R271). -/
  | sb (rs1 rs2 : Reg) (imm : BitVec 12)
  /-- `SH` (R272). -/
  | sh (rs1 rs2 : Reg) (imm : BitVec 12)
  /-- `SW` (R273). -/
  | sw (rs1 rs2 : Reg) (imm : BitVec 12)
  /-- `SD` (R274). -/
  | sd (rs1 rs2 : Reg) (imm : BitVec 12)
  /-- `MISC-MEM` (R280). -/
  | miscMem (rest : BitVec 25)
  /-- `AMO` (R282). -/
  | amo (rest : BitVec 25)
  /-- `SYSTEM` (R281). -/
  | system (rest : BitVec 25)
  /-- `ILLEGAL` (R285). -/
  | illegal (word : Word32)
  deriving DecidableEq, Repr

end Sys2Proof
end

