-- ==== Sys2Proof/WellFormed.lean ====
section
/-! DEFINITION. The opcode table as data (opcode_table.json; 30_encoding.md R137, R138) and the check that a term of
`Instr` is an instruction: a branch or jump offset is even (R132, R134), and an `ILLEGAL` word is one that no row of the
table has (R136 step 4, R140). -/

namespace Sys2Proof

/-- The field `opcode = w[6:0]` (R121). -/
def fieldOpcode (w : Word32) : BitVec 7 := w.extractLsb' 0 7

/-- The field `funct3 = w[14:12]` (R121). -/
def fieldFunct3 (w : Word32) : BitVec 3 := w.extractLsb' 12 3

/-- The field `funct7 = w[31:25]` (R121). -/
def fieldFunct7 (w : Word32) : BitVec 7 := w.extractLsb' 25 7

/-- The field `funct6 = w[31:26]` of the 64-bit shifts (R135). -/
def fieldFunct6 (w : Word32) : BitVec 6 := w.extractLsb' 26 6

/-- One row of the opcode table: the fixed fields of its words (R138). -/
structure OpcodeRow where
  mnemonic : String
  opcode : BitVec 7
  funct3 : Option (BitVec 3) := none
  funct7 : Option (BitVec 7) := none
  funct6 : Option (BitVec 6) := none
  deriving DecidableEq, Repr

/-- Does a word carry every fixed field of the row, exactly (R136 step 3)? -/
def OpcodeRow.has (r : OpcodeRow) (w : Word32) : Bool :=
  fieldOpcode w == r.opcode
    && r.funct3.all (fieldFunct3 w == ·)
    && r.funct7.all (fieldFunct7 w == ·)
    && r.funct6.all (fieldFunct6 w == ·)

/-- Rows of opcode_table.json, part 1. -/
def opcodeRows1 : List OpcodeRow := [
  { mnemonic := "ADDI", opcode := 0b0010011#7, funct3 := some 0b000#3 },
  { mnemonic := "SLTI", opcode := 0b0010011#7, funct3 := some 0b010#3 },
  { mnemonic := "SLTIU", opcode := 0b0010011#7, funct3 := some 0b011#3 },
  { mnemonic := "XORI", opcode := 0b0010011#7, funct3 := some 0b100#3 },
  { mnemonic := "ORI", opcode := 0b0010011#7, funct3 := some 0b110#3 },
  { mnemonic := "ANDI", opcode := 0b0010011#7, funct3 := some 0b111#3 },
  { mnemonic := "SLLI", opcode := 0b0010011#7, funct3 := some 0b001#3, funct6 := some 0b000000#6 },
  { mnemonic := "SRLI", opcode := 0b0010011#7, funct3 := some 0b101#3, funct6 := some 0b000000#6 },
  { mnemonic := "SRAI", opcode := 0b0010011#7, funct3 := some 0b101#3, funct6 := some 0b010000#6 },
  { mnemonic := "LUI", opcode := 0b0110111#7 },
  { mnemonic := "AUIPC", opcode := 0b0010111#7 },
  { mnemonic := "ADD", opcode := 0b0110011#7, funct3 := some 0b000#3, funct7 := some 0b0000000#7 },
  { mnemonic := "SUB", opcode := 0b0110011#7, funct3 := some 0b000#3, funct7 := some 0b0100000#7 },
  { mnemonic := "SLL", opcode := 0b0110011#7, funct3 := some 0b001#3, funct7 := some 0b0000000#7 },
  { mnemonic := "SLT", opcode := 0b0110011#7, funct3 := some 0b010#3, funct7 := some 0b0000000#7 },
  { mnemonic := "SLTU", opcode := 0b0110011#7, funct3 := some 0b011#3, funct7 := some 0b0000000#7 },
  { mnemonic := "XOR", opcode := 0b0110011#7, funct3 := some 0b100#3, funct7 := some 0b0000000#7 },
  { mnemonic := "SRL", opcode := 0b0110011#7, funct3 := some 0b101#3, funct7 := some 0b0000000#7 },
  { mnemonic := "SRA", opcode := 0b0110011#7, funct3 := some 0b101#3, funct7 := some 0b0100000#7 },
  { mnemonic := "OR", opcode := 0b0110011#7, funct3 := some 0b110#3, funct7 := some 0b0000000#7 },
  { mnemonic := "AND", opcode := 0b0110011#7, funct3 := some 0b111#3, funct7 := some 0b0000000#7 },
  { mnemonic := "ADDIW", opcode := 0b0011011#7, funct3 := some 0b000#3 }]

/-- Rows of opcode_table.json, part 2. -/
def opcodeRows2 : List OpcodeRow := [
  { mnemonic := "SLLIW", opcode := 0b0011011#7, funct3 := some 0b001#3, funct7 := some 0b0000000#7 },
  { mnemonic := "SRLIW", opcode := 0b0011011#7, funct3 := some 0b101#3, funct7 := some 0b0000000#7 },
  { mnemonic := "SRAIW", opcode := 0b0011011#7, funct3 := some 0b101#3, funct7 := some 0b0100000#7 },
  { mnemonic := "ADDW", opcode := 0b0111011#7, funct3 := some 0b000#3, funct7 := some 0b0000000#7 },
  { mnemonic := "SUBW", opcode := 0b0111011#7, funct3 := some 0b000#3, funct7 := some 0b0100000#7 },
  { mnemonic := "SLLW", opcode := 0b0111011#7, funct3 := some 0b001#3, funct7 := some 0b0000000#7 },
  { mnemonic := "SRLW", opcode := 0b0111011#7, funct3 := some 0b101#3, funct7 := some 0b0000000#7 },
  { mnemonic := "SRAW", opcode := 0b0111011#7, funct3 := some 0b101#3, funct7 := some 0b0100000#7 },
  { mnemonic := "MUL", opcode := 0b0110011#7, funct3 := some 0b000#3, funct7 := some 0b0000001#7 },
  { mnemonic := "MULH", opcode := 0b0110011#7, funct3 := some 0b001#3, funct7 := some 0b0000001#7 },
  { mnemonic := "MULHSU", opcode := 0b0110011#7, funct3 := some 0b010#3, funct7 := some 0b0000001#7 },
  { mnemonic := "MULHU", opcode := 0b0110011#7, funct3 := some 0b011#3, funct7 := some 0b0000001#7 },
  { mnemonic := "MULW", opcode := 0b0111011#7, funct3 := some 0b000#3, funct7 := some 0b0000001#7 },
  { mnemonic := "DIV", opcode := 0b0110011#7, funct3 := some 0b100#3, funct7 := some 0b0000001#7 },
  { mnemonic := "DIVU", opcode := 0b0110011#7, funct3 := some 0b101#3, funct7 := some 0b0000001#7 },
  { mnemonic := "REM", opcode := 0b0110011#7, funct3 := some 0b110#3, funct7 := some 0b0000001#7 },
  { mnemonic := "REMU", opcode := 0b0110011#7, funct3 := some 0b111#3, funct7 := some 0b0000001#7 },
  { mnemonic := "DIVW", opcode := 0b0111011#7, funct3 := some 0b100#3, funct7 := some 0b0000001#7 },
  { mnemonic := "DIVUW", opcode := 0b0111011#7, funct3 := some 0b101#3, funct7 := some 0b0000001#7 },
  { mnemonic := "REMW", opcode := 0b0111011#7, funct3 := some 0b110#3, funct7 := some 0b0000001#7 },
  { mnemonic := "REMUW", opcode := 0b0111011#7, funct3 := some 0b111#3, funct7 := some 0b0000001#7 },
  { mnemonic := "BEQ", opcode := 0b1100011#7, funct3 := some 0b000#3 }]

/-- Rows of opcode_table.json, part 3. -/
def opcodeRows3 : List OpcodeRow := [
  { mnemonic := "BNE", opcode := 0b1100011#7, funct3 := some 0b001#3 },
  { mnemonic := "BLT", opcode := 0b1100011#7, funct3 := some 0b100#3 },
  { mnemonic := "BGE", opcode := 0b1100011#7, funct3 := some 0b101#3 },
  { mnemonic := "BLTU", opcode := 0b1100011#7, funct3 := some 0b110#3 },
  { mnemonic := "BGEU", opcode := 0b1100011#7, funct3 := some 0b111#3 },
  { mnemonic := "JAL", opcode := 0b1101111#7 },
  { mnemonic := "JALR", opcode := 0b1100111#7, funct3 := some 0b000#3 },
  { mnemonic := "LB", opcode := 0b0000011#7, funct3 := some 0b000#3 },
  { mnemonic := "LH", opcode := 0b0000011#7, funct3 := some 0b001#3 },
  { mnemonic := "LW", opcode := 0b0000011#7, funct3 := some 0b010#3 },
  { mnemonic := "LD", opcode := 0b0000011#7, funct3 := some 0b011#3 },
  { mnemonic := "LBU", opcode := 0b0000011#7, funct3 := some 0b100#3 },
  { mnemonic := "LHU", opcode := 0b0000011#7, funct3 := some 0b101#3 },
  { mnemonic := "LWU", opcode := 0b0000011#7, funct3 := some 0b110#3 },
  { mnemonic := "SB", opcode := 0b0100011#7, funct3 := some 0b000#3 },
  { mnemonic := "SH", opcode := 0b0100011#7, funct3 := some 0b001#3 },
  { mnemonic := "SW", opcode := 0b0100011#7, funct3 := some 0b010#3 },
  { mnemonic := "SD", opcode := 0b0100011#7, funct3 := some 0b011#3 },
  { mnemonic := "MISC-MEM", opcode := 0b0001111#7 },
  { mnemonic := "AMO", opcode := 0b0101111#7 },
  { mnemonic := "SYSTEM", opcode := 0b1110011#7 }]

/-- Every row of opcode_table.json but `ZERO` (the whole word 0, tested before any other row) and `ILLEGAL` (the default
row). -/
def opcodeRows : List OpcodeRow := opcodeRows1 ++ opcodeRows2 ++ opcodeRows3

/-- Some row of the opcode table has the word. -/
def hasRow (w : Word32) : Bool := opcodeRows.any (·.has w)

/-- The well-formed instructions. -/
def Instr.wf : Instr → Bool
  | .zero => true
  | .addi _ _ _ => true
  | .slti _ _ _ => true
  | .sltiu _ _ _ => true
  | .xori _ _ _ => true
  | .ori _ _ _ => true
  | .andi _ _ _ => true
  | .slli _ _ _ => true
  | .srli _ _ _ => true
  | .srai _ _ _ => true
  | .lui _ _ => true
  | .auipc _ _ => true
  | .add _ _ _ => true
  | .sub _ _ _ => true
  | .sll _ _ _ => true
  | .slt _ _ _ => true
  | .sltu _ _ _ => true
  | .xor _ _ _ => true
  | .srl _ _ _ => true
  | .sra _ _ _ => true
  | .or _ _ _ => true
  | .and _ _ _ => true
  | .addiw _ _ _ => true
  | .slliw _ _ _ => true
  | .srliw _ _ _ => true
  | .sraiw _ _ _ => true
  | .addw _ _ _ => true
  | .subw _ _ _ => true
  | .sllw _ _ _ => true
  | .srlw _ _ _ => true
  | .sraw _ _ _ => true
  | .mul _ _ _ => true
  | .mulh _ _ _ => true
  | .mulhsu _ _ _ => true
  | .mulhu _ _ _ => true
  | .mulw _ _ _ => true
  | .div _ _ _ => true
  | .divu _ _ _ => true
  | .rem _ _ _ => true
  | .remu _ _ _ => true
  | .divw _ _ _ => true
  | .divuw _ _ _ => true
  | .remw _ _ _ => true
  | .remuw _ _ _ => true
  | .beq _ _ offset => offset.getLsbD 0 == false
  | .bne _ _ offset => offset.getLsbD 0 == false
  | .blt _ _ offset => offset.getLsbD 0 == false
  | .bge _ _ offset => offset.getLsbD 0 == false
  | .bltu _ _ offset => offset.getLsbD 0 == false
  | .bgeu _ _ offset => offset.getLsbD 0 == false
  | .jal _ offset => offset.getLsbD 0 == false
  | .jalr _ _ _ => true
  | .lb _ _ _ => true
  | .lh _ _ _ => true
  | .lw _ _ _ => true
  | .ld _ _ _ => true
  | .lbu _ _ _ => true
  | .lhu _ _ _ => true
  | .lwu _ _ _ => true
  | .sb _ _ _ => true
  | .sh _ _ _ => true
  | .sw _ _ _ => true
  | .sd _ _ _ => true
  | .miscMem _ => true
  | .amo _ => true
  | .system _ => true
  | .illegal word => word != 0#32 && !hasRow word

end Sys2Proof
end

