-- ==== Sys2Proof/Decode.lean ====
section
/-! DEFINITION. The decoder `rv64i_decoder` (30_encoding.md R120 to R138): total on every 32-bit word, by the procedure of
R136; the reading of an instruction from bytes, which rejects by name what is shorter than a word; and after it the
encoder, from the same formats (R122). -/

namespace Sys2Proof

/-! ## Fields (R121, R130 to R135) -/

/-- `rd = w[11:7]` (R121). -/
def fieldRd (w : Word32) : Reg := w.extractLsb' 7 5

/-- `rs1 = w[19:15]` (R121). -/
def fieldRs1 (w : Word32) : Reg := w.extractLsb' 15 5

/-- `rs2 = w[24:20]` (R121). -/
def fieldRs2 (w : Word32) : Reg := w.extractLsb' 20 5

/-- The 12 bits of the I-immediate, `w[31:20]` (R130). -/
def fieldImmI (w : Word32) : BitVec 12 := w.extractLsb' 20 12

/-- The 12 bits of the S-immediate, `w[31:25] ++ w[11:7]` (R131). -/
def fieldImmS (w : Word32) : BitVec 12 := w.extractLsb' 25 7 ++ w.extractLsb' 7 5

/-- The 13 bits of the B-immediate, `w[31] ++ w[7] ++ w[30:25] ++ w[11:8] ++ 0` (R132). -/
def fieldImmB (w : Word32) : BitVec 13 :=
  w.extractLsb' 31 1 ++ w.extractLsb' 7 1 ++ w.extractLsb' 25 6 ++ w.extractLsb' 8 4 ++ 0#1

/-- The 20 bits `w[31:12]` of the U-immediate (R133). -/
def fieldImmU (w : Word32) : BitVec 20 := w.extractLsb' 12 20

/-- The 21 bits of the J-immediate, `w[31] ++ w[19:12] ++ w[20] ++ w[30:21] ++ 0` (R134). -/
def fieldImmJ (w : Word32) : BitVec 21 :=
  w.extractLsb' 31 1 ++ w.extractLsb' 12 8 ++ w.extractLsb' 20 1 ++ w.extractLsb' 21 10 ++ 0#1

/-- `shamt = w[25:20]` of the 64-bit shifts (R135). -/
def fieldShamt6 (w : Word32) : BitVec 6 := w.extractLsb' 20 6

/-- `shamt = w[24:20]` of the W shifts (R135). -/
def fieldShamt5 (w : Word32) : BitVec 5 := w.extractLsb' 20 5

/-- Bits [31:7], which the no-op classes ignore (R141). -/
def fieldRest (w : Word32) : BitVec 25 := w.extractLsb' 7 25

/-! ## Sub-tables (R138) -/

/-- LOAD (opcode 0x03): `funct3` selects the load, 111 is illegal (R138). -/
def decodeLoad (w : Word32) : Instr :=
  if fieldFunct3 w = 0b000#3 then .lb (fieldRd w) (fieldRs1 w) (fieldImmI w)
  else if fieldFunct3 w = 0b001#3 then .lh (fieldRd w) (fieldRs1 w) (fieldImmI w)
  else if fieldFunct3 w = 0b010#3 then .lw (fieldRd w) (fieldRs1 w) (fieldImmI w)
  else if fieldFunct3 w = 0b011#3 then .ld (fieldRd w) (fieldRs1 w) (fieldImmI w)
  else if fieldFunct3 w = 0b100#3 then .lbu (fieldRd w) (fieldRs1 w) (fieldImmI w)
  else if fieldFunct3 w = 0b101#3 then .lhu (fieldRd w) (fieldRs1 w) (fieldImmI w)
  else if fieldFunct3 w = 0b110#3 then .lwu (fieldRd w) (fieldRs1 w) (fieldImmI w)
  else .illegal w

/-- OP-IMM (opcode 0x13): `funct3`, and `funct6` for the shifts (R135, R138). -/
def decodeOpImm (w : Word32) : Instr :=
  if fieldFunct3 w = 0b000#3 then .addi (fieldRd w) (fieldRs1 w) (fieldImmI w)
  else if fieldFunct3 w = 0b010#3 then .slti (fieldRd w) (fieldRs1 w) (fieldImmI w)
  else if fieldFunct3 w = 0b011#3 then .sltiu (fieldRd w) (fieldRs1 w) (fieldImmI w)
  else if fieldFunct3 w = 0b100#3 then .xori (fieldRd w) (fieldRs1 w) (fieldImmI w)
  else if fieldFunct3 w = 0b110#3 then .ori (fieldRd w) (fieldRs1 w) (fieldImmI w)
  else if fieldFunct3 w = 0b111#3 then .andi (fieldRd w) (fieldRs1 w) (fieldImmI w)
  else if fieldFunct3 w = 0b001#3 ∧ fieldFunct6 w = 0b000000#6 then .slli (fieldRd w) (fieldRs1 w) (fieldShamt6 w)
  else if fieldFunct3 w = 0b101#3 ∧ fieldFunct6 w = 0b000000#6 then .srli (fieldRd w) (fieldRs1 w) (fieldShamt6 w)
  else if fieldFunct3 w = 0b101#3 ∧ fieldFunct6 w = 0b010000#6 then .srai (fieldRd w) (fieldRs1 w) (fieldShamt6 w)
  else .illegal w

/-- OP-IMM-32 (opcode 0x1B): `funct3`, and `funct7` for the shifts, so `w[25] = 1` is illegal (R135, R138). -/
def decodeOpImm32 (w : Word32) : Instr :=
  if fieldFunct3 w = 0b000#3 then .addiw (fieldRd w) (fieldRs1 w) (fieldImmI w)
  else if fieldFunct3 w = 0b001#3 ∧ fieldFunct7 w = 0b0000000#7 then .slliw (fieldRd w) (fieldRs1 w) (fieldShamt5 w)
  else if fieldFunct3 w = 0b101#3 ∧ fieldFunct7 w = 0b0000000#7 then .srliw (fieldRd w) (fieldRs1 w) (fieldShamt5 w)
  else if fieldFunct3 w = 0b101#3 ∧ fieldFunct7 w = 0b0100000#7 then .sraiw (fieldRd w) (fieldRs1 w) (fieldShamt5 w)
  else .illegal w

/-- STORE (opcode 0x23): `funct3` selects the store, 100 to 111 are illegal (R138). -/
def decodeStore (w : Word32) : Instr :=
  if fieldFunct3 w = 0b000#3 then .sb (fieldRs1 w) (fieldRs2 w) (fieldImmS w)
  else if fieldFunct3 w = 0b001#3 then .sh (fieldRs1 w) (fieldRs2 w) (fieldImmS w)
  else if fieldFunct3 w = 0b010#3 then .sw (fieldRs1 w) (fieldRs2 w) (fieldImmS w)
  else if fieldFunct3 w = 0b011#3 then .sd (fieldRs1 w) (fieldRs2 w) (fieldImmS w)
  else .illegal w

/-- OP (opcode 0x33): `funct3`, then `funct7` by exact match (R138). -/
def decodeOp (w : Word32) : Instr :=
  if fieldFunct3 w = 0b000#3 ∧ fieldFunct7 w = 0b0000000#7 then .add (fieldRd w) (fieldRs1 w) (fieldRs2 w)
  else if fieldFunct3 w = 0b000#3 ∧ fieldFunct7 w = 0b0100000#7 then .sub (fieldRd w) (fieldRs1 w) (fieldRs2 w)
  else if fieldFunct3 w = 0b001#3 ∧ fieldFunct7 w = 0b0000000#7 then .sll (fieldRd w) (fieldRs1 w) (fieldRs2 w)
  else if fieldFunct3 w = 0b010#3 ∧ fieldFunct7 w = 0b0000000#7 then .slt (fieldRd w) (fieldRs1 w) (fieldRs2 w)
  else if fieldFunct3 w = 0b011#3 ∧ fieldFunct7 w = 0b0000000#7 then .sltu (fieldRd w) (fieldRs1 w) (fieldRs2 w)
  else if fieldFunct3 w = 0b100#3 ∧ fieldFunct7 w = 0b0000000#7 then .xor (fieldRd w) (fieldRs1 w) (fieldRs2 w)
  else if fieldFunct3 w = 0b101#3 ∧ fieldFunct7 w = 0b0000000#7 then .srl (fieldRd w) (fieldRs1 w) (fieldRs2 w)
  else if fieldFunct3 w = 0b101#3 ∧ fieldFunct7 w = 0b0100000#7 then .sra (fieldRd w) (fieldRs1 w) (fieldRs2 w)
  else if fieldFunct3 w = 0b110#3 ∧ fieldFunct7 w = 0b0000000#7 then .or (fieldRd w) (fieldRs1 w) (fieldRs2 w)
  else if fieldFunct3 w = 0b111#3 ∧ fieldFunct7 w = 0b0000000#7 then .and (fieldRd w) (fieldRs1 w) (fieldRs2 w)
  else if fieldFunct3 w = 0b000#3 ∧ fieldFunct7 w = 0b0000001#7 then .mul (fieldRd w) (fieldRs1 w) (fieldRs2 w)
  else if fieldFunct3 w = 0b001#3 ∧ fieldFunct7 w = 0b0000001#7 then .mulh (fieldRd w) (fieldRs1 w) (fieldRs2 w)
  else if fieldFunct3 w = 0b010#3 ∧ fieldFunct7 w = 0b0000001#7 then .mulhsu (fieldRd w) (fieldRs1 w) (fieldRs2 w)
  else if fieldFunct3 w = 0b011#3 ∧ fieldFunct7 w = 0b0000001#7 then .mulhu (fieldRd w) (fieldRs1 w) (fieldRs2 w)
  else if fieldFunct3 w = 0b100#3 ∧ fieldFunct7 w = 0b0000001#7 then .div (fieldRd w) (fieldRs1 w) (fieldRs2 w)
  else if fieldFunct3 w = 0b101#3 ∧ fieldFunct7 w = 0b0000001#7 then .divu (fieldRd w) (fieldRs1 w) (fieldRs2 w)
  else if fieldFunct3 w = 0b110#3 ∧ fieldFunct7 w = 0b0000001#7 then .rem (fieldRd w) (fieldRs1 w) (fieldRs2 w)
  else if fieldFunct3 w = 0b111#3 ∧ fieldFunct7 w = 0b0000001#7 then .remu (fieldRd w) (fieldRs1 w) (fieldRs2 w)
  else .illegal w

/-- OP-32 (opcode 0x3B): `funct3`, then `funct7` by exact match (R138). -/
def decodeOp32 (w : Word32) : Instr :=
  if fieldFunct3 w = 0b000#3 ∧ fieldFunct7 w = 0b0000000#7 then .addw (fieldRd w) (fieldRs1 w) (fieldRs2 w)
  else if fieldFunct3 w = 0b000#3 ∧ fieldFunct7 w = 0b0100000#7 then .subw (fieldRd w) (fieldRs1 w) (fieldRs2 w)
  else if fieldFunct3 w = 0b001#3 ∧ fieldFunct7 w = 0b0000000#7 then .sllw (fieldRd w) (fieldRs1 w) (fieldRs2 w)
  else if fieldFunct3 w = 0b101#3 ∧ fieldFunct7 w = 0b0000000#7 then .srlw (fieldRd w) (fieldRs1 w) (fieldRs2 w)
  else if fieldFunct3 w = 0b101#3 ∧ fieldFunct7 w = 0b0100000#7 then .sraw (fieldRd w) (fieldRs1 w) (fieldRs2 w)
  else if fieldFunct3 w = 0b000#3 ∧ fieldFunct7 w = 0b0000001#7 then .mulw (fieldRd w) (fieldRs1 w) (fieldRs2 w)
  else if fieldFunct3 w = 0b100#3 ∧ fieldFunct7 w = 0b0000001#7 then .divw (fieldRd w) (fieldRs1 w) (fieldRs2 w)
  else if fieldFunct3 w = 0b101#3 ∧ fieldFunct7 w = 0b0000001#7 then .divuw (fieldRd w) (fieldRs1 w) (fieldRs2 w)
  else if fieldFunct3 w = 0b110#3 ∧ fieldFunct7 w = 0b0000001#7 then .remw (fieldRd w) (fieldRs1 w) (fieldRs2 w)
  else if fieldFunct3 w = 0b111#3 ∧ fieldFunct7 w = 0b0000001#7 then .remuw (fieldRd w) (fieldRs1 w) (fieldRs2 w)
  else .illegal w

/-- BRANCH (opcode 0x63): `funct3`, 010 and 011 are illegal (R138). -/
def decodeBranch (w : Word32) : Instr :=
  if fieldFunct3 w = 0b000#3 then .beq (fieldRs1 w) (fieldRs2 w) (fieldImmB w)
  else if fieldFunct3 w = 0b001#3 then .bne (fieldRs1 w) (fieldRs2 w) (fieldImmB w)
  else if fieldFunct3 w = 0b100#3 then .blt (fieldRs1 w) (fieldRs2 w) (fieldImmB w)
  else if fieldFunct3 w = 0b101#3 then .bge (fieldRs1 w) (fieldRs2 w) (fieldImmB w)
  else if fieldFunct3 w = 0b110#3 then .bltu (fieldRs1 w) (fieldRs2 w) (fieldImmB w)
  else if fieldFunct3 w = 0b111#3 then .bgeu (fieldRs1 w) (fieldRs2 w) (fieldImmB w)
  else .illegal w

/-- JALR (opcode 0x67): any other `funct3` than 000 is illegal (R138, D21). -/
def decodeJalr (w : Word32) : Instr :=
  if fieldFunct3 w = 0b000#3 then .jalr (fieldRd w) (fieldRs1 w) (fieldImmI w)
  else .illegal w

/-! ## The decoder -/

/-- The decoder of R136: the all-zero word first, then the major opcode of R137, then the sub-table of R138, and
`ILLEGAL` for every word without a row. -/
def decodeWord (w : Word32) : Instr :=
  if w = 0#32 then .zero
  else if fieldOpcode w = 0x03#7 then decodeLoad w
  else if fieldOpcode w = 0x0F#7 then .miscMem (fieldRest w)
  else if fieldOpcode w = 0x13#7 then decodeOpImm w
  else if fieldOpcode w = 0x17#7 then .auipc (fieldRd w) (fieldImmU w)
  else if fieldOpcode w = 0x1B#7 then decodeOpImm32 w
  else if fieldOpcode w = 0x23#7 then decodeStore w
  else if fieldOpcode w = 0x2F#7 then .amo (fieldRest w)
  else if fieldOpcode w = 0x33#7 then decodeOp w
  else if fieldOpcode w = 0x37#7 then .lui (fieldRd w) (fieldImmU w)
  else if fieldOpcode w = 0x3B#7 then decodeOp32 w
  else if fieldOpcode w = 0x63#7 then decodeBranch w
  else if fieldOpcode w = 0x67#7 then decodeJalr w
  else if fieldOpcode w = 0x6F#7 then .jal (fieldRd w) (fieldImmJ w)
  else if fieldOpcode w = 0x73#7 then .system (fieldRest w)
  else .illegal w

/-! ## Bytes (R66, R120) -/

/-- The little-endian value of a list of bytes: the low-addressed byte is the low-order byte (R66). -/
def leValue : List Byte → Nat
  | [] => 0
  | b :: bs => b.toNat + 256 * leValue bs

/-- The `n` low bytes of a value, the low-order byte first (R66). -/
def leBytes : Nat → Nat → List Byte
  | 0, _ => []
  | n + 1, v => BitVec.ofNat 8 v :: leBytes n (v / 256)

/-- Why bytes are no instruction: fewer than the 4 bytes of a word (R120). -/
inductive DecodeError where
  | shortWord
  deriving DecidableEq, Repr

/-- The instruction at the head of a list of bytes and the bytes after it: 4 bytes, little-endian (R120). -/
def decodeBytes : List Byte → Except DecodeError (Instr × List Byte)
  | b0 :: b1 :: b2 :: b3 :: rest => .ok (decodeWord (BitVec.ofNat 32 (leValue [b0, b1, b2, b3])), rest)
  | [] => .error .shortWord
  | [_] => .error .shortWord
  | [_, _] => .error .shortWord
  | [_, _, _] => .error .shortWord

/-- What the decoder reads from an instruction whose bits are `w`, numbered from bit 0 of its word and zero above
`nbits`: the word's bytes as the hardware stores them, given to `decodeBytes`. -/
def decodeTableWord (nbits w : Nat) : Option Instr :=
  match decodeBytes (leBytes 4 (w % 2 ^ nbits)) with
  | .ok (i, _) => some i
  | .error _ => none

/-! ## The encoder (R122) -/

/-- Format R. -/
def encR (funct7 : BitVec 7) (rs2 rs1 : Reg) (funct3 : BitVec 3) (rd : Reg) (opcode : BitVec 7) : Word32 :=
  funct7 ++ rs2 ++ rs1 ++ funct3 ++ rd ++ opcode

/-- Format I. -/
def encI (imm : BitVec 12) (rs1 : Reg) (funct3 : BitVec 3) (rd : Reg) (opcode : BitVec 7) : Word32 :=
  imm ++ rs1 ++ funct3 ++ rd ++ opcode

/-- Format S: `imm[11:5]` above, `imm[4:0]` in the place of `rd`. -/
def encS (imm : BitVec 12) (rs2 rs1 : Reg) (funct3 : BitVec 3) (opcode : BitVec 7) : Word32 :=
  imm.extractLsb' 5 7 ++ rs2 ++ rs1 ++ funct3 ++ imm.extractLsb' 0 5 ++ opcode

/-- Format B: `imm[12] imm[10:5]` above, `imm[4:1] imm[11]` in the place of `rd`. -/
def encB (offset : BitVec 13) (rs2 rs1 : Reg) (funct3 : BitVec 3) (opcode : BitVec 7) : Word32 :=
  offset.extractLsb' 12 1 ++ offset.extractLsb' 5 6 ++ rs2 ++ rs1 ++ funct3 ++ offset.extractLsb' 1 4
    ++ offset.extractLsb' 11 1 ++ opcode

/-- Format U. -/
def encU (imm20 : BitVec 20) (rd : Reg) (opcode : BitVec 7) : Word32 :=
  imm20 ++ rd ++ opcode

/-- Format J: `imm[20] imm[10:1] imm[11] imm[19:12]`. -/
def encJ (offset : BitVec 21) (rd : Reg) (opcode : BitVec 7) : Word32 :=
  offset.extractLsb' 20 1 ++ offset.extractLsb' 1 10 ++ offset.extractLsb' 11 1 ++ offset.extractLsb' 12 8
    ++ rd ++ opcode

/-- The word of an instruction, from the rows of the opcode table. -/
def encode : Instr → Word32
  | .zero => 0#32
  | .addi rd rs1 imm => encI imm rs1 0b000#3 rd 0b0010011#7
  | .slti rd rs1 imm => encI imm rs1 0b010#3 rd 0b0010011#7
  | .sltiu rd rs1 imm => encI imm rs1 0b011#3 rd 0b0010011#7
  | .xori rd rs1 imm => encI imm rs1 0b100#3 rd 0b0010011#7
  | .ori rd rs1 imm => encI imm rs1 0b110#3 rd 0b0010011#7
  | .andi rd rs1 imm => encI imm rs1 0b111#3 rd 0b0010011#7
  | .slli rd rs1 shamt => encI (0b000000#6 ++ shamt) rs1 0b001#3 rd 0b0010011#7
  | .srli rd rs1 shamt => encI (0b000000#6 ++ shamt) rs1 0b101#3 rd 0b0010011#7
  | .srai rd rs1 shamt => encI (0b010000#6 ++ shamt) rs1 0b101#3 rd 0b0010011#7
  | .lui rd imm20 => encU imm20 rd 0b0110111#7
  | .auipc rd imm20 => encU imm20 rd 0b0010111#7
  | .add rd rs1 rs2 => encR 0b0000000#7 rs2 rs1 0b000#3 rd 0b0110011#7
  | .sub rd rs1 rs2 => encR 0b0100000#7 rs2 rs1 0b000#3 rd 0b0110011#7
  | .sll rd rs1 rs2 => encR 0b0000000#7 rs2 rs1 0b001#3 rd 0b0110011#7
  | .slt rd rs1 rs2 => encR 0b0000000#7 rs2 rs1 0b010#3 rd 0b0110011#7
  | .sltu rd rs1 rs2 => encR 0b0000000#7 rs2 rs1 0b011#3 rd 0b0110011#7
  | .xor rd rs1 rs2 => encR 0b0000000#7 rs2 rs1 0b100#3 rd 0b0110011#7
  | .srl rd rs1 rs2 => encR 0b0000000#7 rs2 rs1 0b101#3 rd 0b0110011#7
  | .sra rd rs1 rs2 => encR 0b0100000#7 rs2 rs1 0b101#3 rd 0b0110011#7
  | .or rd rs1 rs2 => encR 0b0000000#7 rs2 rs1 0b110#3 rd 0b0110011#7
  | .and rd rs1 rs2 => encR 0b0000000#7 rs2 rs1 0b111#3 rd 0b0110011#7
  | .addiw rd rs1 imm => encI imm rs1 0b000#3 rd 0b0011011#7
  | .slliw rd rs1 shamt => encI (0b0000000#7 ++ shamt) rs1 0b001#3 rd 0b0011011#7
  | .srliw rd rs1 shamt => encI (0b0000000#7 ++ shamt) rs1 0b101#3 rd 0b0011011#7
  | .sraiw rd rs1 shamt => encI (0b0100000#7 ++ shamt) rs1 0b101#3 rd 0b0011011#7
  | .addw rd rs1 rs2 => encR 0b0000000#7 rs2 rs1 0b000#3 rd 0b0111011#7
  | .subw rd rs1 rs2 => encR 0b0100000#7 rs2 rs1 0b000#3 rd 0b0111011#7
  | .sllw rd rs1 rs2 => encR 0b0000000#7 rs2 rs1 0b001#3 rd 0b0111011#7
  | .srlw rd rs1 rs2 => encR 0b0000000#7 rs2 rs1 0b101#3 rd 0b0111011#7
  | .sraw rd rs1 rs2 => encR 0b0100000#7 rs2 rs1 0b101#3 rd 0b0111011#7
  | .mul rd rs1 rs2 => encR 0b0000001#7 rs2 rs1 0b000#3 rd 0b0110011#7
  | .mulh rd rs1 rs2 => encR 0b0000001#7 rs2 rs1 0b001#3 rd 0b0110011#7
  | .mulhsu rd rs1 rs2 => encR 0b0000001#7 rs2 rs1 0b010#3 rd 0b0110011#7
  | .mulhu rd rs1 rs2 => encR 0b0000001#7 rs2 rs1 0b011#3 rd 0b0110011#7
  | .mulw rd rs1 rs2 => encR 0b0000001#7 rs2 rs1 0b000#3 rd 0b0111011#7
  | .div rd rs1 rs2 => encR 0b0000001#7 rs2 rs1 0b100#3 rd 0b0110011#7
  | .divu rd rs1 rs2 => encR 0b0000001#7 rs2 rs1 0b101#3 rd 0b0110011#7
  | .rem rd rs1 rs2 => encR 0b0000001#7 rs2 rs1 0b110#3 rd 0b0110011#7
  | .remu rd rs1 rs2 => encR 0b0000001#7 rs2 rs1 0b111#3 rd 0b0110011#7
  | .divw rd rs1 rs2 => encR 0b0000001#7 rs2 rs1 0b100#3 rd 0b0111011#7
  | .divuw rd rs1 rs2 => encR 0b0000001#7 rs2 rs1 0b101#3 rd 0b0111011#7
  | .remw rd rs1 rs2 => encR 0b0000001#7 rs2 rs1 0b110#3 rd 0b0111011#7
  | .remuw rd rs1 rs2 => encR 0b0000001#7 rs2 rs1 0b111#3 rd 0b0111011#7
  | .beq rs1 rs2 offset => encB offset rs2 rs1 0b000#3 0b1100011#7
  | .bne rs1 rs2 offset => encB offset rs2 rs1 0b001#3 0b1100011#7
  | .blt rs1 rs2 offset => encB offset rs2 rs1 0b100#3 0b1100011#7
  | .bge rs1 rs2 offset => encB offset rs2 rs1 0b101#3 0b1100011#7
  | .bltu rs1 rs2 offset => encB offset rs2 rs1 0b110#3 0b1100011#7
  | .bgeu rs1 rs2 offset => encB offset rs2 rs1 0b111#3 0b1100011#7
  | .jal rd offset => encJ offset rd 0b1101111#7
  | .jalr rd rs1 imm => encI imm rs1 0b000#3 rd 0b1100111#7
  | .lb rd rs1 imm => encI imm rs1 0b000#3 rd 0b0000011#7
  | .lh rd rs1 imm => encI imm rs1 0b001#3 rd 0b0000011#7
  | .lw rd rs1 imm => encI imm rs1 0b010#3 rd 0b0000011#7
  | .ld rd rs1 imm => encI imm rs1 0b011#3 rd 0b0000011#7
  | .lbu rd rs1 imm => encI imm rs1 0b100#3 rd 0b0000011#7
  | .lhu rd rs1 imm => encI imm rs1 0b101#3 rd 0b0000011#7
  | .lwu rd rs1 imm => encI imm rs1 0b110#3 rd 0b0000011#7
  | .sb rs1 rs2 imm => encS imm rs2 rs1 0b000#3 0b0100011#7
  | .sh rs1 rs2 imm => encS imm rs2 rs1 0b001#3 0b0100011#7
  | .sw rs1 rs2 imm => encS imm rs2 rs1 0b010#3 0b0100011#7
  | .sd rs1 rs2 imm => encS imm rs2 rs1 0b011#3 0b0100011#7
  | .miscMem rest => rest ++ 0b0001111#7
  | .amo rest => rest ++ 0b0101111#7
  | .system rest => rest ++ 0b1110011#7
  | .illegal word => word

/-- The bytes of an instruction as the hardware stores them (R66, R120). -/
def encodeBytes (i : Instr) : List Byte := leBytes 4 (encode i).toNat

end Sys2Proof
end

