-- ==== Sys2Proof/Machine/State.lean ====
section
/-! DEFINITION. The state of the block (10_state.md, 70_reset_and_hazards.md R430) as plain data: the register file, the
PC, the four latches, the two resumable status registers, the TLBs, the caches, the predictor, the run status and log, the
set `STORED` and the backing store, with the launch and OPEN parameters the step reads; the reasons a step can stop; and
the state after reset. A latch with `valid = 0` is the constructor `bubble`: the other fields of a bubble are never read
(R430, I13), so they are not held. -/

namespace Sys2Proof.Machine

/-! ## Events (60_exceptions.md) -/

/-- The instruction side (fetch, I-TLB, I-cache) or the data side (memory stage, D-TLB, D-cache) (R18). -/
inductive Side where
  | instr
  | data
  deriving DecidableEq, Repr

/-- The reasons of the halt record (R41, R301). -/
inductive HaltReason where
  | pageFault (side : Side)
  | misaligned (side : Side)
  | tlbSlotMismatch
  deriving DecidableEq, Repr

/-- The halt record `H` (R41). -/
inductive HaltRecord where
  | running
  | halted (reason : HaltReason) (pc va : Word)
  deriving DecidableEq, Repr

/-- What a fault token carries: the reason and the virtual address (R32). -/
structure FaultInfo where
  reason : HaltReason
  va : Word
  deriving DecidableEq, Repr

/-! ## Pipeline latches (R32 to R35) -/

/-- Latch `D`, fetch to decode (R32). -/
inductive DLatch where
  | bubble
  | instr (pc : Word) (word : Word32) (predPc : Word)
  | token (pc : Word) (fault : FaultInfo)
  deriving DecidableEq, Repr

/-- The fields of latch `X` when it holds an instruction (R33, R358). -/
structure XInstr where
  pc : Word
  word : Word32
  op : Instr
  rd : Option Reg
  a : Word
  b : Word
  imm : Word
  predPc : Word
  deriving DecidableEq, Repr

/-- Latch `X`, decode to execute (R33). -/
inductive XLatch where
  | bubble
  | instr (v : XInstr)
  | token (pc : Word) (fault : FaultInfo)
  deriving DecidableEq, Repr

/-- The access sizes 1, 2, 4 and 8 bytes (R67). -/
inductive AccessSize where
  | b1
  | b2
  | b4
  | b8
  deriving DecidableEq, Repr

/-- Latch `M`, execute to memory: a register-write-only descriptor, a load, a store, no effect, or a fault token (R34). -/
inductive MLatch where
  | bubble
  | reg (pc : Word) (rd : Option Reg) (value : Word)
  | load (pc : Word) (rd : Option Reg) (va : Word) (size : AccessSize) (signed : Bool)
  | store (pc : Word) (va : Word) (size : AccessSize) (value : Word)
  | noEffect (pc : Word)
  | token (pc : Word) (fault : FaultInfo)
  deriving DecidableEq, Repr

/-- Latch `W`, memory to writeback (R35). Where `rd` is none the value is never read (assumption 21). -/
inductive WLatch where
  | bubble
  | retire (pc : Word) (rd : Option Reg) (value : Word)
  deriving DecidableEq, Repr

/-! ## Resumable status registers (R36, R37) -/

/-- The two steps of a page walk (R83, R85). -/
inductive WalkStep where
  | first
  | second
  deriving DecidableEq, Repr

/-- The fetch stage's status register `FS` (R36). -/
inductive FetchStatus where
  | fresh
  | iTlb (step : WalkStep) (issued : Bool)
  | iFill (pa : PAddr) (way : Nat) (issued : Bool)
  | iDeferred (pa : PAddr)
  | faulted
  deriving DecidableEq, Repr

/-- The memory stage's status register `MS` (R37). -/
inductive MemStatus where
  | idle
  | dTlb (step : WalkStep) (issued : Bool)
  | dDeferred (pa : PAddr)
  | dEvict (pa : PAddr) (way : Nat) (victimPa : PAddr) (issued : Bool)
  | dFill (pa : PAddr) (way : Nat) (issued : Bool)
  | dWriteThrough (pa : PAddr) (issued : Bool)
  deriving DecidableEq, Repr

/-! ## Translation, caches, predictor (R38 to R40) -/

/-- A TLB slot: valid bit, superpage number and physical superpage number (R38, R81). -/
structure TlbSlot where
  valid : Bool
  tag : BitVec 18
  ppn : BitVec 18
  deriving DecidableEq, Repr

/-- A TLB instance: 8 slots and the pending second-level index register `L2A` (R38, R89). -/
structure Tlb where
  slots : Vector TlbSlot 8
  l2a : PAddr
  deriving DecidableEq, Repr

/-- A cache row (R39). A byte of a line that came from a backing-store byte no harness loaded and no store wrote holds no
value (`none`), as in the backing store (R46). The instruction cache never sets `dirty` (R106). -/
structure Line where
  valid : Bool
  tag : Nat
  data : List (Option Byte)
  dirty : Bool
  deriving DecidableEq, Repr

/-- The rows of a cache: for each index, the ways of its set (R39, R95). -/
abbrev Cache := List (List Line)

/-- An entry of the branch target table (R40, R245). -/
structure BpEntry where
  branch : Word
  target : Word
  ctr : BitVec 2
  deriving DecidableEq, Repr

/-- The backing store `PMEM`: the bytes that hold a value, by strictly rising physical address (R46). -/
abbrev Memory := List Host.Cell

/-! ## The state -/

/-- Everything the spec gives the machine, and what its step reads. -/
structure State where
  /-- `x0` to `x31` (R20). -/
  regs : Vector Word 32
  /-- The PC: the address of the next instruction to fetch (R24). -/
  pc : Word
  /-- Latch `D` (R32). -/
  d : DLatch
  /-- Latch `X` (R33). -/
  x : XLatch
  /-- Latch `M` (R34). -/
  m : MLatch
  /-- Latch `W` (R35). -/
  w : WLatch
  /-- Status register `FS` (R36). -/
  fs : FetchStatus
  /-- Status register `MS` (R37). -/
  ms : MemStatus
  /-- `tlb_i_side` (R38, R79). -/
  itlb : Tlb
  /-- `tlb_d_side` (R38, R79). -/
  dtlb : Tlb
  /-- `set_assoc_icache` (R39). -/
  icache : Cache
  /-- `set_assoc_dcache` (R39). -/
  dcache : Cache
  /-- The branch target table (R40). -/
  bp : Vector BpEntry 32
  /-- The halt record `H` (R41). -/
  halt : HaltRecord
  /-- The illegal-instruction log `LOG`, oldest first (R42). -/
  log : List (Word × Word32)
  /-- The set `STORED` of physical bytes written by a store, strictly rising (R72). -/
  stored : List Nat
  /-- The backing store `PMEM` (R46). -/
  pmem : Memory
  /-- The page-table base register (R30). -/
  ptbr : PAddr
  /-- The parameters of R11 (R44), which no step changes. -/
  params : Params
  /-- The answers of the oracle `MemLatency` the harness has fixed ahead, next first (R62). -/
  latency : List Bool
  /-- How many backing-store calls were made: the number the free value `Config.memLatency` is read at. -/
  calls : Nat
  /-- The draws of the oracle `VictimTie` fixed ahead, next first (R98). -/
  victims : List Nat
  /-- How many victim draws were made: the number the free value `Config.victimTie` is read at. -/
  draws : Nat
  deriving DecidableEq, Repr

/-! ## Stops -/

/-- The machine has no next state because an address does not exist. -/
inductive Fault where
  /-- A page walk, a fill, an eviction or a write-through at a physical address not wholly below `PMEM_SIZE`, raised by
  `physRead` and `physWrite`: R71 gives it no behaviour and calls the core stuck. Safe. -/
  | outsideMemory (address : Nat)
  deriving DecidableEq, Repr

/-- The model gives the step no meaning. -/
inductive Refusal where
  /-- An instruction without a meaning yet, refused by name in `exec`. No arm of `exec` is one. Safe. -/
  | notModelled (mnemonic : String)
  /-- An instruction fetch or a page-table read that touches a byte in `STORED`, raised by `translate` and
  `icacheServe`: R72 refuses it. Safe. -/
  | storedByte (address : Nat)
  deriving DecidableEq, Repr

/-- Either reason to stop, for the operations below a step. -/
inductive Stop where
  | fault (f : Fault)
  | refuse (r : Refusal)
  deriving DecidableEq, Repr

/-- The outcome a stop gives a step. -/
def Stop.outcome : Stop → Host.Outcome State Fault Refusal
  | .fault f => .fault f
  | .refuse r => .refused r

/-! ## Reset (R430) -/

/-- An invalid TLB slot. Its tag and number are unspecified and never read (R38, assumption 8). -/
def TlbSlot.empty : TlbSlot := { valid := false, tag := 0#18, ppn := 0#18 }

/-- A TLB after reset (R38, assumption 8). -/
def Tlb.empty : Tlb := { slots := Vector.replicate 8 TlbSlot.empty, l2a := 0#32 }

/-- An invalid cache row of a cache with the given line size. Its tag and data are unspecified and never read (R39,
assumption 8). -/
def Line.empty (lineSize : Nat) : Line :=
  { valid := false, tag := 0, data := List.replicate lineSize none, dirty := false }

/-- A cache after reset (R39). -/
def Cache.empty (lineSize rows ways : Nat) : Cache := List.replicate rows (List.replicate ways (Line.empty lineSize))

/-- A predictor entry after reset (R40). -/
def BpEntry.empty : BpEntry := { branch := 0#64, target := 0#64, ctr := 0#2 }

/-- The reset state for the launch parameters a harness supplies (R430): `RESET_PC`, `PTBR`, `INIT_REGS`, `INIT_MEM`, and
the parameters of R11. -/
def State.launch (params : Params) (resetPc : Word) (ptbr : PAddr) (initRegs : Vector Word 32) (initMem : Memory) : State where
  regs := initRegs
  pc := resetPc
  d := .bubble
  x := .bubble
  m := .bubble
  w := .bubble
  fs := .fresh
  ms := .idle
  itlb := Tlb.empty
  dtlb := Tlb.empty
  icache := Cache.empty Config.iline params.icacheRows params.icacheWays
  dcache := Cache.empty Config.dline params.dcacheRows params.dcacheWays
  bp := Vector.replicate 32 BpEntry.empty
  halt := .running
  log := []
  stored := []
  pmem := initMem
  ptbr := ptbr
  params := params
  latency := []
  calls := 0
  victims := []
  draws := 0

/-- The machine right after reset: the reset table of R430 at the model's launch parameters (assumptions 1 to 5), with no
byte of memory loaded. -/
def State.reset : State :=
  State.launch Config.defaults Config.resetPc Config.resetPtbr (Vector.replicate 32 Config.resetReg) []

end Sys2Proof.Machine
end

