-- ==== Sys2Proof/Machine/Ops.lean ====
section
/-! DEFINITION. The named operations over registers, memory and the run status: the register file's port (10_state.md R20 to
R22), the backing store's bytes and calls (20_memory.md R60 to R66, R71), the set `STORED` (R72), the illegal-instruction
log (60_exceptions.md R302), and raising a halt, the one exceptional event with a recorded state (R303 to R305). There is
no trap entry and no return from one (R311, R312). -/

namespace Sys2Proof.Machine

/-! ## Registers (R20, R21) -/

/-- `register_read`: index 0 reads 0 when `x0` is hard-wired (R21). -/
def State.readReg (s : State) (r : Reg) : Word :=
  if s.params.x0Hardwired && r == 0#5 then 0#64 else s.regs[r.toNat]

/-- `register_write`: a write of index 0 has no effect when `x0` is hard-wired (R21). -/
def State.writeReg (s : State) (r : Reg) (v : Word) : State :=
  if s.params.x0Hardwired && r == 0#5 then s else { s with regs := s.regs.set r.toNat v }

/-! ## The bytes of the backing store (R46, R66) -/

/-- The byte at a physical address, if it holds a value: an address not listed holds none (R46, assumption 5). -/
def Memory.read : Memory → Nat → Option Byte
  | [], _ => none
  | (a, b) :: rest, k => if a = k then some b else Memory.read rest k

/-- Removes the entry of an address. -/
def Memory.erase : Memory → Nat → Memory
  | [], _ => []
  | (a, b) :: rest, k => if a = k then rest else (a, b) :: Memory.erase rest k

/-- Inserts or replaces the entry of an address, at its place. -/
def Memory.insert : Memory → Nat → Byte → Memory
  | [], k, v => [(k, v)]
  | (a, b) :: rest, k, v =>
    if k < a then (k, v) :: (a, b) :: rest
    else if a = k then (k, v) :: rest
    else (a, b) :: Memory.insert rest k v

/-- Writes one byte. Writing back a byte that holds no value leaves its address unlisted, so equal memories are equal
lists. -/
def Memory.write (m : Memory) (k : Nat) : Option Byte → Memory
  | some v => m.insert k v
  | none => m.erase k

/-- The bytes at `k, k + 1, …, k + n - 1`. -/
def Memory.readBytes (m : Memory) (k : Nat) : Nat → List (Option Byte)
  | 0 => []
  | n + 1 => m.read k :: Memory.readBytes m (k + 1) n

/-- Writes the bytes at `k, k + 1, …`. -/
def Memory.writeBytes (m : Memory) (k : Nat) : List (Option Byte) → Memory
  | [] => m
  | b :: bs => Memory.writeBytes (m.write k b) (k + 1) bs

/-- The canonical form: addresses strictly rising. No entry can equal what an unlisted address reads as, since that is no
value. -/
def Memory.wf : Memory → Bool
  | [] => true
  | [_] => true
  | (a, _) :: (b, c) :: rest => decide (a < b) && Memory.wf ((b, c) :: rest)

/-- The value a byte is used at: a byte that holds no value is a free value, one for each address (R46, I8,
assumption 5). -/
def resolveByte (address : Nat) (b : Option Byte) : Byte := b.getD (Config.unloadedByte address)

/-- The values of consecutive bytes from a physical address up. -/
def resolveBytes : Nat → List (Option Byte) → List Byte
  | _, [] => []
  | k, b :: bs => resolveByte k b :: resolveBytes (k + 1) bs

/-! ## The set `STORED` (R72) -/

/-- Adds one byte address to a strictly rising list. -/
def storedInsert : List Nat → Nat → List Nat
  | [], k => [k]
  | a :: rest, k => if k < a then k :: a :: rest else if a = k then a :: rest else a :: storedInsert rest k

/-- Adds the byte addresses `k, …, k + n - 1`. -/
def storedAdd (st : List Nat) (k : Nat) : Nat → List Nat
  | 0 => st
  | n + 1 => storedAdd (storedInsert st k) (k + 1) n

/-- Does an access of `n` bytes at `k` touch a stored byte? -/
def storedTouches (st : List Nat) (k n : Nat) : Bool := st.any fun a => decide (k ≤ a) && decide (a < k + n)

/-- The bytes of a store join `STORED` in the cycle they enter a cache line or the backing store (R72). -/
def State.markStored (s : State) (k n : Nat) : State := { s with stored := storedAdd s.stored k n }

/-! ## Calls on the backing store (R61 to R63) -/

/-- One draw of the oracle `MemLatency` for a call: the harness's next fixed answer, and past those the free value
(R62, assumption 6). -/
def State.drawLatency (s : State) (kind : CallKind) (address : Nat) : Bool × State :=
  match s.latency with
  | b :: rest => (b, { s with latency := rest, calls := s.calls + 1 })
  | [] => (Config.memLatency kind address s.calls, { s with calls := s.calls + 1 })

/-- One draw of the oracle `VictimTie` (R98, assumption 7). -/
def State.drawVictim (s : State) : Nat × State :=
  match s.victims with
  | k :: rest => (k, { s with victims := rest, draws := s.draws + 1 })
  | [] => (Config.victimTie s.draws, { s with draws := s.draws + 1 })

/-- The answer of one call on the backing store. -/
inductive CallResult where
  /-- The address is outside the backing store (R71). -/
  | stop (f : Fault)
  /-- The call did not complete in this cycle; the caller retries (R61). -/
  | pending (s : State)
  /-- The call completed, with the bytes a read returns. -/
  | done (s : State) (bytes : List (Option Byte))
  deriving DecidableEq, Repr

/-- One cycle of `PhysRead(pa, n)`: `memory_read`, or `memory_status` when the request was already issued (R61, R340). The
bytes are those of `mem`, the backing store at the start of the cycle (R16, assumption 9). -/
def physRead (s : State) (mem : Memory) (issued : Bool) (pa n : Nat) : CallResult :=
  if s.params.pmemSize < pa + n then .stop (.outsideMemory pa)
  else
    match s.drawLatency (if issued then .status else .read) pa with
    | (true, s') => .done s' (mem.readBytes pa n)
    | (false, s') => .pending s'

/-- One cycle of `PhysWrite(pa, n, v)`: the bytes are stored in the cycle the call completes (R61). -/
def physWrite (s : State) (issued : Bool) (pa : Nat) (bytes : List (Option Byte)) : CallResult :=
  if s.params.pmemSize < pa + bytes.length then .stop (.outsideMemory pa)
  else
    match s.drawLatency (if issued then .status else .write) pa with
    | (true, s') => .done { s' with pmem := s'.pmem.writeBytes pa bytes } []
    | (false, s') => .pending s'

/-! ## Events -/

/-- `log Illegal(pc, word)`: appends to `LOG` (R302). -/
def State.logIllegal (s : State) (pc : Word) (word : Word32) : State := { s with log := s.log ++ [(pc, word)] }

/-- `raise Halt(reason, pc, va)`: the machine's one exceptional entry. It writes the halt record and nothing else; there is
no saved status, no vector and no mode (R305, R311). -/
def State.raiseHalt (s : State) (reason : HaltReason) (pc va : Word) : State :=
  { s with halt := .halted reason pc va }

/-! ## Writeback (R400) -/

/-- The writeback stage commits latch `W`: a bubble or `rd = none` writes nothing (R400). -/
def State.writeback (s : State) : State :=
  match s.w with
  | .retire _ (some r) v => s.writeReg r v
  | .retire _ none _ => s
  | .bubble => s

end Sys2Proof.Machine
end

