-- ==== Sys2Proof/Machine/Operands.lean ====
section
/-! DEFINITION. Operand forms: the immediates (30_encoding.md R130 to R135), the destination and source registers of each
instruction (R143, R144), its 64-bit immediate (R33), the addressing mode and the access sizes (43_loadstore.md R260,
20_memory.md R67, R68), and the extension of a loaded slice (R262). -/

namespace Sys2Proof.Machine

/-! ## Immediates -/

/-- `sext_12` (R130, R131). -/
def sext12 (imm : BitVec 12) : Word := imm.signExtend 64

/-- `sext_13` (R132). -/
def sext13 (offset : BitVec 13) : Word := offset.signExtend 64

/-- `sext_21` (R134). -/
def sext21 (offset : BitVec 21) : Word := offset.signExtend 64

/-- `sext_32` of a 32-bit result (R133, R172). -/
def sext32 (v : Word32) : Word := v.signExtend 64

/-- `trunc_32` of an operand (R172). -/
def trunc32 (v : Word) : Word32 := v.setWidth 32

/-- The U-immediate `sext_32(imm20 ++ 0x000)` (R133). -/
def immU (imm20 : BitVec 20) : Word := sext32 (imm20 ++ 0#12)

/-- The shift amount of a 64-bit register shift, `b[5:0]` (R135, R183). -/
def shamt64 (b : Word) : Nat := (b.setWidth 6).toNat

/-- The shift amount of a W register shift, `b[4:0]` (R135, R183). -/
def shamt32 (b : Word) : Nat := (b.setWidth 5).toNat

/-! ## Registers an instruction names -/

/-- The destination: `rd` in formats R, I, U and J, none in S and B, none for the no-op operations and `ILLEGAL`
(R143). -/
def dest : Instr → Option Reg
  | .zero => none
  | .addi rd _ _ => some rd
  | .slti rd _ _ => some rd
  | .sltiu rd _ _ => some rd
  | .xori rd _ _ => some rd
  | .ori rd _ _ => some rd
  | .andi rd _ _ => some rd
  | .slli rd _ _ => some rd
  | .srli rd _ _ => some rd
  | .srai rd _ _ => some rd
  | .lui rd _ => some rd
  | .auipc rd _ => some rd
  | .add rd _ _ => some rd
  | .sub rd _ _ => some rd
  | .sll rd _ _ => some rd
  | .slt rd _ _ => some rd
  | .sltu rd _ _ => some rd
  | .xor rd _ _ => some rd
  | .srl rd _ _ => some rd
  | .sra rd _ _ => some rd
  | .or rd _ _ => some rd
  | .and rd _ _ => some rd
  | .addiw rd _ _ => some rd
  | .slliw rd _ _ => some rd
  | .srliw rd _ _ => some rd
  | .sraiw rd _ _ => some rd
  | .addw rd _ _ => some rd
  | .subw rd _ _ => some rd
  | .sllw rd _ _ => some rd
  | .srlw rd _ _ => some rd
  | .sraw rd _ _ => some rd
  | .mul rd _ _ => some rd
  | .mulh rd _ _ => some rd
  | .mulhsu rd _ _ => some rd
  | .mulhu rd _ _ => some rd
  | .mulw rd _ _ => some rd
  | .div rd _ _ => some rd
  | .divu rd _ _ => some rd
  | .rem rd _ _ => some rd
  | .remu rd _ _ => some rd
  | .divw rd _ _ => some rd
  | .divuw rd _ _ => some rd
  | .remw rd _ _ => some rd
  | .remuw rd _ _ => some rd
  | .beq _ _ _ => none
  | .bne _ _ _ => none
  | .blt _ _ _ => none
  | .bge _ _ _ => none
  | .bltu _ _ _ => none
  | .bgeu _ _ _ => none
  | .jal rd _ => some rd
  | .jalr rd _ _ => some rd
  | .lb rd _ _ => some rd
  | .lh rd _ _ => some rd
  | .lw rd _ _ => some rd
  | .ld rd _ _ => some rd
  | .lbu rd _ _ => some rd
  | .lhu rd _ _ => some rd
  | .lwu rd _ _ => some rd
  | .sb _ _ _ => none
  | .sh _ _ _ => none
  | .sw _ _ _ => none
  | .sd _ _ _ => none
  | .miscMem _ => none
  | .amo _ => none
  | .system _ => none
  | .illegal _ => none

/-- The first source: formats R, I, S and B read `rs1` (R144). -/
def src1 : Instr → Option Reg
  | .zero => none
  | .addi _ rs1 _ => some rs1
  | .slti _ rs1 _ => some rs1
  | .sltiu _ rs1 _ => some rs1
  | .xori _ rs1 _ => some rs1
  | .ori _ rs1 _ => some rs1
  | .andi _ rs1 _ => some rs1
  | .slli _ rs1 _ => some rs1
  | .srli _ rs1 _ => some rs1
  | .srai _ rs1 _ => some rs1
  | .lui _ _ => none
  | .auipc _ _ => none
  | .add _ rs1 _ => some rs1
  | .sub _ rs1 _ => some rs1
  | .sll _ rs1 _ => some rs1
  | .slt _ rs1 _ => some rs1
  | .sltu _ rs1 _ => some rs1
  | .xor _ rs1 _ => some rs1
  | .srl _ rs1 _ => some rs1
  | .sra _ rs1 _ => some rs1
  | .or _ rs1 _ => some rs1
  | .and _ rs1 _ => some rs1
  | .addiw _ rs1 _ => some rs1
  | .slliw _ rs1 _ => some rs1
  | .srliw _ rs1 _ => some rs1
  | .sraiw _ rs1 _ => some rs1
  | .addw _ rs1 _ => some rs1
  | .subw _ rs1 _ => some rs1
  | .sllw _ rs1 _ => some rs1
  | .srlw _ rs1 _ => some rs1
  | .sraw _ rs1 _ => some rs1
  | .mul _ rs1 _ => some rs1
  | .mulh _ rs1 _ => some rs1
  | .mulhsu _ rs1 _ => some rs1
  | .mulhu _ rs1 _ => some rs1
  | .mulw _ rs1 _ => some rs1
  | .div _ rs1 _ => some rs1
  | .divu _ rs1 _ => some rs1
  | .rem _ rs1 _ => some rs1
  | .remu _ rs1 _ => some rs1
  | .divw _ rs1 _ => some rs1
  | .divuw _ rs1 _ => some rs1
  | .remw _ rs1 _ => some rs1
  | .remuw _ rs1 _ => some rs1
  | .beq rs1 _ _ => some rs1
  | .bne rs1 _ _ => some rs1
  | .blt rs1 _ _ => some rs1
  | .bge rs1 _ _ => some rs1
  | .bltu rs1 _ _ => some rs1
  | .bgeu rs1 _ _ => some rs1
  | .jal _ _ => none
  | .jalr _ rs1 _ => some rs1
  | .lb _ rs1 _ => some rs1
  | .lh _ rs1 _ => some rs1
  | .lw _ rs1 _ => some rs1
  | .ld _ rs1 _ => some rs1
  | .lbu _ rs1 _ => some rs1
  | .lhu _ rs1 _ => some rs1
  | .lwu _ rs1 _ => some rs1
  | .sb rs1 _ _ => some rs1
  | .sh rs1 _ _ => some rs1
  | .sw rs1 _ _ => some rs1
  | .sd rs1 _ _ => some rs1
  | .miscMem _ => none
  | .amo _ => none
  | .system _ => none
  | .illegal _ => none

/-- The second source: formats R, S and B read `rs2` (R144). -/
def src2 : Instr → Option Reg
  | .zero => none
  | .addi _ _ _ => none
  | .slti _ _ _ => none
  | .sltiu _ _ _ => none
  | .xori _ _ _ => none
  | .ori _ _ _ => none
  | .andi _ _ _ => none
  | .slli _ _ _ => none
  | .srli _ _ _ => none
  | .srai _ _ _ => none
  | .lui _ _ => none
  | .auipc _ _ => none
  | .add _ _ rs2 => some rs2
  | .sub _ _ rs2 => some rs2
  | .sll _ _ rs2 => some rs2
  | .slt _ _ rs2 => some rs2
  | .sltu _ _ rs2 => some rs2
  | .xor _ _ rs2 => some rs2
  | .srl _ _ rs2 => some rs2
  | .sra _ _ rs2 => some rs2
  | .or _ _ rs2 => some rs2
  | .and _ _ rs2 => some rs2
  | .addiw _ _ _ => none
  | .slliw _ _ _ => none
  | .srliw _ _ _ => none
  | .sraiw _ _ _ => none
  | .addw _ _ rs2 => some rs2
  | .subw _ _ rs2 => some rs2
  | .sllw _ _ rs2 => some rs2
  | .srlw _ _ rs2 => some rs2
  | .sraw _ _ rs2 => some rs2
  | .mul _ _ rs2 => some rs2
  | .mulh _ _ rs2 => some rs2
  | .mulhsu _ _ rs2 => some rs2
  | .mulhu _ _ rs2 => some rs2
  | .mulw _ _ rs2 => some rs2
  | .div _ _ rs2 => some rs2
  | .divu _ _ rs2 => some rs2
  | .rem _ _ rs2 => some rs2
  | .remu _ _ rs2 => some rs2
  | .divw _ _ rs2 => some rs2
  | .divuw _ _ rs2 => some rs2
  | .remw _ _ rs2 => some rs2
  | .remuw _ _ rs2 => some rs2
  | .beq _ rs2 _ => some rs2
  | .bne _ rs2 _ => some rs2
  | .blt _ rs2 _ => some rs2
  | .bge _ rs2 _ => some rs2
  | .bltu _ rs2 _ => some rs2
  | .bgeu _ rs2 _ => some rs2
  | .jal _ _ => none
  | .jalr _ _ _ => none
  | .lb _ _ _ => none
  | .lh _ _ _ => none
  | .lw _ _ _ => none
  | .ld _ _ _ => none
  | .lbu _ _ _ => none
  | .lhu _ _ _ => none
  | .lwu _ _ _ => none
  | .sb _ rs2 _ => some rs2
  | .sh _ rs2 _ => some rs2
  | .sw _ rs2 _ => some rs2
  | .sd _ rs2 _ => some rs2
  | .miscMem _ => none
  | .amo _ => none
  | .system _ => none
  | .illegal _ => none

/-- The 64-bit immediate of an instruction (R130 to R135); none for one the spec gives no immediate: format R, `ZERO`,
`ILLEGAL`, and the no-op classes, of which R137 names a format but no rule uses an immediate. -/
def immediate : Instr → Option Word
  | .zero => none
  | .addi _ _ imm => some (sext12 imm)
  | .slti _ _ imm => some (sext12 imm)
  | .sltiu _ _ imm => some (sext12 imm)
  | .xori _ _ imm => some (sext12 imm)
  | .ori _ _ imm => some (sext12 imm)
  | .andi _ _ imm => some (sext12 imm)
  | .slli _ _ shamt => some (shamt.setWidth 64)
  | .srli _ _ shamt => some (shamt.setWidth 64)
  | .srai _ _ shamt => some (shamt.setWidth 64)
  | .lui _ imm20 => some (immU imm20)
  | .auipc _ imm20 => some (immU imm20)
  | .add _ _ _ => none
  | .sub _ _ _ => none
  | .sll _ _ _ => none
  | .slt _ _ _ => none
  | .sltu _ _ _ => none
  | .xor _ _ _ => none
  | .srl _ _ _ => none
  | .sra _ _ _ => none
  | .or _ _ _ => none
  | .and _ _ _ => none
  | .addiw _ _ imm => some (sext12 imm)
  | .slliw _ _ shamt => some (shamt.setWidth 64)
  | .srliw _ _ shamt => some (shamt.setWidth 64)
  | .sraiw _ _ shamt => some (shamt.setWidth 64)
  | .addw _ _ _ => none
  | .subw _ _ _ => none
  | .sllw _ _ _ => none
  | .srlw _ _ _ => none
  | .sraw _ _ _ => none
  | .mul _ _ _ => none
  | .mulh _ _ _ => none
  | .mulhsu _ _ _ => none
  | .mulhu _ _ _ => none
  | .mulw _ _ _ => none
  | .div _ _ _ => none
  | .divu _ _ _ => none
  | .rem _ _ _ => none
  | .remu _ _ _ => none
  | .divw _ _ _ => none
  | .divuw _ _ _ => none
  | .remw _ _ _ => none
  | .remuw _ _ _ => none
  | .beq _ _ offset => some (sext13 offset)
  | .bne _ _ offset => some (sext13 offset)
  | .blt _ _ offset => some (sext13 offset)
  | .bge _ _ offset => some (sext13 offset)
  | .bltu _ _ offset => some (sext13 offset)
  | .bgeu _ _ offset => some (sext13 offset)
  | .jal _ offset => some (sext21 offset)
  | .jalr _ _ imm => some (sext12 imm)
  | .lb _ _ imm => some (sext12 imm)
  | .lh _ _ imm => some (sext12 imm)
  | .lw _ _ imm => some (sext12 imm)
  | .ld _ _ imm => some (sext12 imm)
  | .lbu _ _ imm => some (sext12 imm)
  | .lhu _ _ imm => some (sext12 imm)
  | .lwu _ _ imm => some (sext12 imm)
  | .sb _ _ imm => some (sext12 imm)
  | .sh _ _ imm => some (sext12 imm)
  | .sw _ _ imm => some (sext12 imm)
  | .sd _ _ imm => some (sext12 imm)
  | .miscMem _ => none
  | .amo _ => none
  | .system _ => none
  | .illegal _ => none

/-- The immediate latch `X` holds (R33, R353, R358). DESIGN CHOICE (assumption 22): those rules give `X.imm` no value for an
instruction without an immediate; the model puts 0 there, and nothing reads it. -/
def immValue (i : Instr) : Word := (immediate i).getD 0#64

/-! ## Memory operands -/

/-- Bytes of an access (R67). -/
def AccessSize.bytes : AccessSize → Nat
  | .b1 => 1
  | .b2 => 2
  | .b4 => 4
  | .b8 => 8

/-- The one addressing mode: base plus signed 12-bit offset, modulo 2^64 (R260). -/
def effectiveAddress (a : Word) (imm : BitVec 12) : Word := a + sext12 imm

/-- The alignment test of a data access: with `o = va[2:0]`, misaligned when `n > 1` and (`o mod 4 != 0` or `o + n > 8`)
(R68). -/
def misalignedData (va : Word) (size : AccessSize) : Bool :=
  let o := (va.setWidth 3).toNat
  decide (1 < size.bytes) && (decide (o % 4 ≠ 0) || decide (8 < o + size.bytes))

/-- The alignment test of a fetch: misaligned when `pc[1:0] != 00` (R69). -/
def misalignedFetch (pc : Word) : Bool := pc.setWidth 2 != 0#2

/-- Sign or zero extension of an `n`-byte slice to 64 bits, `s ? sext_{8n}(v) : zext_{8n}(v)` (R262). -/
def extendSlice (size : AccessSize) (signed : Bool) (v : Nat) : Word :=
  match size, signed with
  | .b1, true => (BitVec.ofNat 8 v).signExtend 64
  | .b1, false => (BitVec.ofNat 8 v).setWidth 64
  | .b2, true => (BitVec.ofNat 16 v).signExtend 64
  | .b2, false => (BitVec.ofNat 16 v).setWidth 64
  | .b4, true => (BitVec.ofNat 32 v).signExtend 64
  | .b4, false => (BitVec.ofNat 32 v).setWidth 64
  | .b8, _ => BitVec.ofNat 64 v

/-- The bytes a store of `n` bytes writes: `trunc_{8n}(b)`, little-endian (R263, R66). -/
def storeBytes (size : AccessSize) (value : Word) : List Byte := leBytes size.bytes value.toNat

end Sys2Proof.Machine
end

