-- ==== Sys2Proof/Machine/Flags.lean ====
section
/-! DEFINITION. The conditions instructions test. The hardware has no flags (10_state.md R29): a comparison writes a general
register or decides a branch directly, and the divide operations test the sentinel condition of 41_muldiv.md R201. -/

namespace Sys2Proof.Machine

/-- `signed(a) < signed(b)` (R152, R165, R233). -/
def ltSigned (a b : Word) : Bool := decide (a.toInt < b.toInt)

/-- `unsigned(a) < unsigned(b)` (R153, R166, R235). -/
def ltUnsigned (a b : Word) : Bool := decide (a.toNat < b.toNat)

/-- The register value of a comparison, `c ? 1 : 0` (R152). -/
def boolWord (c : Bool) : Word := if c then 1#64 else 0#64

/-- `S64(a, b) = (b == 0) or (a == MIN64 and b == ONES64)` (R201). -/
def sentinel64 (a b : Word) : Bool := b == 0#64 || (a == min64 && b == ones64)

/-- `S32(a, b)` on the low 32 bits (R201). -/
def sentinel32 (a b : Word32) : Bool := b == 0#32 || (a == min32 && b == ones32)

/-- The sentinel condition of the unsigned 64-bit operations: the second disjunct only under `DIV_SENTINEL_UNSIGNED`
(R201, R209). -/
def sentinelU64 (p : Params) (a b : Word) : Bool :=
  b == 0#64 || (p.divSentinelUnsigned && (a == min64 && b == ones64))

/-- The sentinel condition of the unsigned 32-bit operations (R201, R213). -/
def sentinelU32 (p : Params) (a b : Word32) : Bool :=
  b == 0#32 || (p.divSentinelUnsigned && (a == min32 && b == ones32))

end Sys2Proof.Machine
end

