-- ==== Sys2Proof/Machine/Predictor.lean ====
section
/-! DEFINITION. The branch predictor `branch_predictor` (42_control.md R245 to R255). -/

namespace Sys2Proof.Machine

/-- `idx(addr) = (addr >> BP_INDEX_SHIFT) mod 32` (R246). -/
def bpIndex (p : Params) (addr : Word) : BitVec 5 := (addr >>> p.bpIndexShift).setWidth 5

/-- Does the entry predict taken for the address? `counter2`: the stored address matches and the counter is 2 or 3 (R247).
`btfnt`: the stored address matches and the target is at most `pc + 4`, unsigned; the counter is ignored (R248). -/
def predictsTaken (p : Params) (e : BpEntry) (pc : Word) : Bool :=
  match p.bpPolicy with
  | .counter2 => e.branch == pc && decide (2 ≤ e.ctr.toNat)
  | .btfnt => e.branch == pc && decide (e.target.toNat ≤ (pc + 4#64).toNat)

/-- `predict(pc)`: the target when the entry at `idx(pc)` predicts taken, else `pc + 4` (R247, R248). -/
def predict (p : Params) (bp : Vector BpEntry 32) (pc : Word) : Word :=
  let e := bp[(bpIndex p pc).toNat]
  if predictsTaken p e pc then e.target else pc + 4#64

/-- The saturating counter, up or down by one within 0 to 3 (R250). -/
def bumpCounter (ctr : BitVec 2) (taken : Bool) : BitVec 2 :=
  if taken then (if ctr = 3#2 then 3#2 else ctr + 1#2) else (if ctr = 0#2 then 0#2 else ctr - 1#2)

/-- The updated entry: an existing entry for the target has its counter moved (R250); otherwise it is overwritten, with
its counter seeded fully towards the outcome (R251). -/
def updateEntry (e : BpEntry) (pc tgt : Word) (taken : Bool) : BpEntry :=
  if e.target = tgt then { e with ctr := bumpCounter e.ctr taken }
  else { branch := pc, target := tgt, ctr := if taken then 3#2 else 0#2 }

/-- The table write of an update, at the index of the target or of the branch address (R246, R250, R251). -/
def bpWrite (p : Params) (bp : Vector BpEntry 32) (pc tgt : Word) (taken : Bool) : Vector BpEntry 32 :=
  let i := match p.bpUpdateIndex with
    | .target => bpIndex p tgt
    | .branch => bpIndex p pc
  bp.set i.toNat (updateEntry bp[i.toNat] pc tgt taken)

/-- The update a resolved control transfer makes (R249): under `taken`, only when `nextPc != pc + 4`, with `tgt = nextPc`;
under `every_control`, always, with `takenTgt` the taken target. -/
def bpResolve (p : Params) (bp : Vector BpEntry 32) (pc nextPc takenTgt : Word) : Vector BpEntry 32 :=
  let taken := nextPc != pc + 4#64
  match p.bpUpdateOn with
  | .taken => if taken then bpWrite p bp pc nextPc true else bp
  | .everyControl => bpWrite p bp pc takenTgt taken

end Sys2Proof.Machine
end

