-- ==== Sys2Proof/Machine/Execute.lean ====
section
/-! DEFINITION. What every meaning shares (70_reset_and_hazards.md R370 to R377): the operands an instruction finds in latch
`X`, the write of latch `M`, and the comparison of its actual next PC with the predicted one. A meaning is the execute
stage's action for one instruction: it takes the state in which the memory stage of the cycle has acted, and leaves the
redirect's effect on the PC, the fetch status and latch `D` for the decode and fetch stages of the same cycle. -/

namespace Sys2Proof.Machine

/-- The outcome of a meaning. -/
abbrev Result := Host.Outcome State Fault Refusal

/-- The misprediction test (R372): when the actual next PC differs from the predicted one, the PC is corrected, the access
in progress is abandoned (R341), and the instruction in `D` is killed (R374). -/
def State.redirect (s : State) (v : XInstr) (nextPc : Word) : State :=
  if nextPc = v.predPc then s else { s with pc := nextPc, fs := .fresh, d := .bubble }

/-- Writes latch `M` and checks the prediction: the end of every meaning (R370). -/
def State.finish (s : State) (v : XInstr) (m' : MLatch) (nextPc : Word) : State :=
  ({ s with m := m' } : State).redirect v nextPc

/-- Runs a meaning on the instruction in latch `X`. A bubble in `X` gives a bubble in `M` (R371); a fault token passes to
`M` unchanged (R377). -/
def onInstr (s : State) (f : XInstr → State) : Result :=
  match s.x with
  | .bubble => .next { s with m := .bubble }
  | .token pc fault => .next { s with m := .token pc fault }
  | .instr v => .next (f v)

/-- The template of R150 and R200: `M'` is a register write of the result, and the next PC is `pc + 4`. -/
def execResult (rd : Reg) (result : XInstr → Word) (s : State) : Result :=
  onInstr s fun v => s.finish v (.reg v.pc (some rd) (result v)) (v.pc + 4#64)

/-- The template of R279: no effect, and the next PC is `pc + 4`. -/
def execNoOp (s : State) : Result := onInstr s fun v => s.finish v (.noEffect v.pc) (v.pc + 4#64)

/-- The template of R231 to R236: a branch taken on `cond a b` goes to `pc + offset`; it writes no register. It updates the
predictor (R249, R373). -/
def execBranch (cond : Word → Word → Bool) (offset : BitVec 13) (s : State) : Result :=
  onInstr s fun v =>
    let target := v.pc + sext13 offset
    let nextPc := if cond v.a v.b then target else v.pc + 4#64
    { s with bp := bpResolve s.params s.bp v.pc nextPc target }.finish v (.noEffect v.pc) nextPc

/-- The template of R237 and R238: a jump links `pc + 4` in `rd` and goes to its target; it updates the predictor (R249,
R373). -/
def execJump (rd : Reg) (target : XInstr → Word) (s : State) : Result :=
  onInstr s fun v =>
    { s with bp := bpResolve s.params s.bp v.pc (target v) (target v) }.finish v
      (.reg v.pc (some rd) (v.pc + 4#64)) (target v)

/-- The template of R262: a load descriptor at `va = a + imm`. The memory stage performs it. -/
def execLoad (rd : Reg) (imm : BitVec 12) (size : AccessSize) (signed : Bool) (s : State) : Result :=
  onInstr s fun v => s.finish v (.load v.pc (some rd) (effectiveAddress v.a imm) size signed) (v.pc + 4#64)

/-- The template of R263: a store descriptor at `va = a + imm` with the value of `rs2`. The memory stage performs it. -/
def execStore (imm : BitVec 12) (size : AccessSize) (s : State) : Result :=
  onInstr s fun v => s.finish v (.store v.pc (effectiveAddress v.a imm) size v.b) (v.pc + 4#64)

end Sys2Proof.Machine
end

