-- ==== Sys2Proof/Machine/Control.lean ====
section
/-! DEFINITION. Control transfer (42_control.md R230 to R239): each computes its actual next PC; no target raises an exception when
the instruction executes (R239). -/

namespace Sys2Proof.Machine

/-- `BEQ rs1, rs2, offset` (R231): taken when `a == b`. -/
def execBeq (_rs1 _rs2 : Reg) (offset : BitVec 13) (s : State) : Result :=
  execBranch (fun a b => a == b) offset s

/-- `BNE rs1, rs2, offset` (R232): taken when `a != b`. -/
def execBne (_rs1 _rs2 : Reg) (offset : BitVec 13) (s : State) : Result :=
  execBranch (fun a b => a != b) offset s

/-- `BLT rs1, rs2, offset` (R233): taken when `a < b`, signed. -/
def execBlt (_rs1 _rs2 : Reg) (offset : BitVec 13) (s : State) : Result :=
  execBranch (fun a b => ltSigned a b) offset s

/-- `BGE rs1, rs2, offset` (R234): taken when `a >= b`, signed. -/
def execBge (_rs1 _rs2 : Reg) (offset : BitVec 13) (s : State) : Result :=
  execBranch (fun a b => !ltSigned a b) offset s

/-- `BLTU rs1, rs2, offset` (R235): taken when `a < b`, unsigned. -/
def execBltu (_rs1 _rs2 : Reg) (offset : BitVec 13) (s : State) : Result :=
  execBranch (fun a b => ltUnsigned a b) offset s

/-- `BGEU rs1, rs2, offset` (R236): taken when `a >= b`, unsigned. -/
def execBgeu (_rs1 _rs2 : Reg) (offset : BitVec 13) (s : State) : Result :=
  execBranch (fun a b => !ltUnsigned a b) offset s

/-- `JAL rd, offset` (R237): links `pc + 4` and goes to `pc + sext_21(offset)`. -/
def execJal (rd : Reg) (offset : BitVec 21) (s : State) : Result :=
  execJump rd (fun v => v.pc + sext21 offset) s

/-- `JALR rd, imm(rs1)` (R238): links `pc + 4` and goes to `(a + sext_12(imm)) AND NOT 1`, with `a` the value read at
decode. -/
def execJalr (rd _rs1 : Reg) (imm : BitVec 12) (s : State) : Result :=
  execJump rd (fun v => (v.a + sext12 imm) &&& ~~~1#64) s

end Sys2Proof.Machine
end

