-- ==== Sys2Proof/Machine/Integer.lean ====
section
/-! DEFINITION. The 64-bit integer instructions (40_integer.md R150 to R171): OP-IMM, LUI, AUIPC and OP. `rs1` and `rs2` were
resolved at decode into `X.a` and `X.b` (30_encoding.md R145). -/

namespace Sys2Proof.Machine

/-- `ADDI rd, rs1, imm` (R151): `a + sext_12(imm)` modulo 2^64. -/
def execAddi (rd _rs1 : Reg) (imm : BitVec 12) (s : State) : Result :=
  execResult rd (fun v => v.a + sext12 imm) s

/-- `SLTI rd, rs1, imm` (R152): 1 if `a < imm`, signed, else 0. -/
def execSlti (rd _rs1 : Reg) (imm : BitVec 12) (s : State) : Result :=
  execResult rd (fun v => boolWord (ltSigned v.a (sext12 imm))) s

/-- `SLTIU rd, rs1, imm` (R153): 1 if `a < imm`, the sign-extended immediate compared unsigned, else 0. -/
def execSltiu (rd _rs1 : Reg) (imm : BitVec 12) (s : State) : Result :=
  execResult rd (fun v => boolWord (ltUnsigned v.a (sext12 imm))) s

/-- `XORI rd, rs1, imm` (R154): `a XOR sext_12(imm)`. -/
def execXori (rd _rs1 : Reg) (imm : BitVec 12) (s : State) : Result :=
  execResult rd (fun v => v.a ^^^ sext12 imm) s

/-- `ORI rd, rs1, imm` (R155): `a OR sext_12(imm)`. -/
def execOri (rd _rs1 : Reg) (imm : BitVec 12) (s : State) : Result :=
  execResult rd (fun v => v.a ||| sext12 imm) s

/-- `ANDI rd, rs1, imm` (R156): `a AND sext_12(imm)`. -/
def execAndi (rd _rs1 : Reg) (imm : BitVec 12) (s : State) : Result :=
  execResult rd (fun v => v.a &&& sext12 imm) s

/-- `SLLI rd, rs1, shamt` (R157): `a << shamt`, zeros in. -/
def execSlli (rd _rs1 : Reg) (shamt : BitVec 6) (s : State) : Result :=
  execResult rd (fun v => v.a <<< shamt.toNat) s

/-- `SRLI rd, rs1, shamt` (R158): `a >>u shamt`, zeros in. -/
def execSrli (rd _rs1 : Reg) (shamt : BitVec 6) (s : State) : Result :=
  execResult rd (fun v => v.a >>> shamt.toNat) s

/-- `SRAI rd, rs1, shamt` (R159): `a >>s shamt`, copies of bit 63 in. -/
def execSrai (rd _rs1 : Reg) (shamt : BitVec 6) (s : State) : Result :=
  execResult rd (fun v => v.a.sshiftRight shamt.toNat) s

/-- `LUI rd, imm20` (R160): `sext_32(imm20 ++ 0x000)`. -/
def execLui (rd : Reg) (imm20 : BitVec 20) (s : State) : Result :=
  execResult rd (fun _ => immU imm20) s

/-- `AUIPC rd, imm20` (R161): `pc + sext_32(imm20 ++ 0x000)`, with `pc` the instruction's own address. -/
def execAuipc (rd : Reg) (imm20 : BitVec 20) (s : State) : Result :=
  execResult rd (fun v => v.pc + immU imm20) s

/-- `ADD rd, rs1, rs2` (R162): `a + b` modulo 2^64. -/
def execAdd (rd _rs1 _rs2 : Reg) (s : State) : Result :=
  execResult rd (fun v => v.a + v.b) s

/-- `SUB rd, rs1, rs2` (R163): `a - b` modulo 2^64. -/
def execSub (rd _rs1 _rs2 : Reg) (s : State) : Result :=
  execResult rd (fun v => v.a - v.b) s

/-- `SLL rd, rs1, rs2` (R164): `a << b[5:0]`. -/
def execSll (rd _rs1 _rs2 : Reg) (s : State) : Result :=
  execResult rd (fun v => v.a <<< shamt64 v.b) s

/-- `SLT rd, rs1, rs2` (R165): 1 if `a < b`, signed, else 0. -/
def execSlt (rd _rs1 _rs2 : Reg) (s : State) : Result :=
  execResult rd (fun v => boolWord (ltSigned v.a v.b)) s

/-- `SLTU rd, rs1, rs2` (R166): 1 if `a < b`, unsigned, else 0. -/
def execSltu (rd _rs1 _rs2 : Reg) (s : State) : Result :=
  execResult rd (fun v => boolWord (ltUnsigned v.a v.b)) s

/-- `XOR rd, rs1, rs2` (R167): `a XOR b`. -/
def execXor (rd _rs1 _rs2 : Reg) (s : State) : Result :=
  execResult rd (fun v => v.a ^^^ v.b) s

/-- `SRL rd, rs1, rs2` (R168): `a >>u b[5:0]`. -/
def execSrl (rd _rs1 _rs2 : Reg) (s : State) : Result :=
  execResult rd (fun v => v.a >>> shamt64 v.b) s

/-- `SRA rd, rs1, rs2` (R169): `a >>s b[5:0]`. -/
def execSra (rd _rs1 _rs2 : Reg) (s : State) : Result :=
  execResult rd (fun v => v.a.sshiftRight (shamt64 v.b)) s

/-- `OR rd, rs1, rs2` (R170): `a OR b`. -/
def execOr (rd _rs1 _rs2 : Reg) (s : State) : Result :=
  execResult rd (fun v => v.a ||| v.b) s

/-- `AND rd, rs1, rs2` (R171): `a AND b`. -/
def execAnd (rd _rs1 _rs2 : Reg) (s : State) : Result :=
  execResult rd (fun v => v.a &&& v.b) s

end Sys2Proof.Machine
end

