-- ==== Sys2Proof/Machine/IntegerW.lean ====
section
/-! DEFINITION. The 32-bit integer instructions (40_integer.md R172 to R181): each computes on `trunc_32` of its operands and
writes `sext_32` of the 32-bit result (R172). -/

namespace Sys2Proof.Machine

/-- `ADDIW rd, rs1, imm` (R173): `sext_32(trunc_32(a + sext_12(imm)))`. -/
def execAddiw (rd _rs1 : Reg) (imm : BitVec 12) (s : State) : Result :=
  execResult rd (fun v => sext32 (trunc32 (v.a + sext12 imm))) s

/-- `SLLIW rd, rs1, shamt` (R174): `sext_32(trunc_32(a) << shamt)`. -/
def execSlliw (rd _rs1 : Reg) (shamt : BitVec 5) (s : State) : Result :=
  execResult rd (fun v => sext32 (trunc32 v.a <<< shamt.toNat)) s

/-- `SRLIW rd, rs1, shamt` (R175): `sext_32(trunc_32(a) >>u shamt)`. -/
def execSrliw (rd _rs1 : Reg) (shamt : BitVec 5) (s : State) : Result :=
  execResult rd (fun v => sext32 (trunc32 v.a >>> shamt.toNat)) s

/-- `SRAIW rd, rs1, shamt` (R176): `sext_32(trunc_32(a) >>s shamt)`, copies of bit 31 in. -/
def execSraiw (rd _rs1 : Reg) (shamt : BitVec 5) (s : State) : Result :=
  execResult rd (fun v => sext32 ((trunc32 v.a).sshiftRight shamt.toNat)) s

/-- `ADDW rd, rs1, rs2` (R177): `sext_32(trunc_32(a + b))`. -/
def execAddw (rd _rs1 _rs2 : Reg) (s : State) : Result :=
  execResult rd (fun v => sext32 (trunc32 (v.a + v.b))) s

/-- `SUBW rd, rs1, rs2` (R178): `sext_32(trunc_32(a - b))`. -/
def execSubw (rd _rs1 _rs2 : Reg) (s : State) : Result :=
  execResult rd (fun v => sext32 (trunc32 (v.a - v.b))) s

/-- `SLLW rd, rs1, rs2` (R179): `sext_32(trunc_32(a) << b[4:0])`. -/
def execSllw (rd _rs1 _rs2 : Reg) (s : State) : Result :=
  execResult rd (fun v => sext32 (trunc32 v.a <<< shamt32 v.b)) s

/-- `SRLW rd, rs1, rs2` (R180): `sext_32(trunc_32(a) >>u b[4:0])`. -/
def execSrlw (rd _rs1 _rs2 : Reg) (s : State) : Result :=
  execResult rd (fun v => sext32 (trunc32 v.a >>> shamt32 v.b)) s

/-- `SRAW rd, rs1, rs2` (R181): `sext_32(trunc_32(a) >>s b[4:0])`. -/
def execSraw (rd _rs1 _rs2 : Reg) (s : State) : Result :=
  execResult rd (fun v => sext32 ((trunc32 v.a).sshiftRight (shamt32 v.b))) s

end Sys2Proof.Machine
end

