-- ==== Sys2Proof/Machine/LoadStore.lean ====
section
/-! DEFINITION. Loads and stores (43_loadstore.md R260 to R274): the execute stage writes the descriptor; the memory stage performs
the access, with its alignment and translation tests (R261). -/

namespace Sys2Proof.Machine

/-- `LB rd, imm(rs1)` (R264). -/
def execLb (rd _rs1 : Reg) (imm : BitVec 12) (s : State) : Result := execLoad rd imm .b1 true s

/-- `LH rd, imm(rs1)` (R265). -/
def execLh (rd _rs1 : Reg) (imm : BitVec 12) (s : State) : Result := execLoad rd imm .b2 true s

/-- `LW rd, imm(rs1)` (R266). -/
def execLw (rd _rs1 : Reg) (imm : BitVec 12) (s : State) : Result := execLoad rd imm .b4 true s

/-- `LD rd, imm(rs1)` (R267). -/
def execLd (rd _rs1 : Reg) (imm : BitVec 12) (s : State) : Result := execLoad rd imm .b8 true s

/-- `LBU rd, imm(rs1)` (R268). -/
def execLbu (rd _rs1 : Reg) (imm : BitVec 12) (s : State) : Result := execLoad rd imm .b1 false s

/-- `LHU rd, imm(rs1)` (R269). -/
def execLhu (rd _rs1 : Reg) (imm : BitVec 12) (s : State) : Result := execLoad rd imm .b2 false s

/-- `LWU rd, imm(rs1)` (R270). -/
def execLwu (rd _rs1 : Reg) (imm : BitVec 12) (s : State) : Result := execLoad rd imm .b4 false s

/-- `SB rs2, imm(rs1)` (R271). -/
def execSb (_rs1 _rs2 : Reg) (imm : BitVec 12) (s : State) : Result := execStore imm .b1 s

/-- `SH rs2, imm(rs1)` (R272). -/
def execSh (_rs1 _rs2 : Reg) (imm : BitVec 12) (s : State) : Result := execStore imm .b2 s

/-- `SW rs2, imm(rs1)` (R273). -/
def execSw (_rs1 _rs2 : Reg) (imm : BitVec 12) (s : State) : Result := execStore imm .b4 s

/-- `SD rs2, imm(rs1)` (R274). -/
def execSd (_rs1 _rs2 : Reg) (imm : BitVec 12) (s : State) : Result := execStore imm .b8 s

end Sys2Proof.Machine
end

