-- ==== Sys2Proof/Machine/Misc.lean ====
section
/-! DEFINITION. The no-op classes, the all-zero word and illegal instructions (44_misc.md R279 to R286). -/

namespace Sys2Proof.Machine

/-- `ZERO`, the all-zero word (R284): a no-op, not logged. -/
def execZero (s : State) : Result := execNoOp s

/-- MISC-MEM, `FENCE` and `FENCE.I` among them (R280, R74): a no-op. -/
def execMiscMem (_rest : BitVec 25) (s : State) : Result := execNoOp s

/-- AMO, `LR`, `SC` and the rest (R282, R75): a no-op. -/
def execAmo (_rest : BitVec 25) (s : State) : Result := execNoOp s

/-- SYSTEM, `ECALL`, `EBREAK`, the CSR instructions, `MRET`, `WFI` and `SFENCE.VMA` among them (R281, R312, R314, R318): a
no-op. -/
def execSystem (_rest : BitVec 25) (s : State) : Result := execNoOp s

/-- `ILLEGAL` (R285): appends `(X.pc, X.word)` to `LOG` (R302, R376), otherwise a no-op. -/
def execIllegal (_word : Word32) (s : State) : Result :=
  onInstr s fun v => (s.logIllegal v.pc v.word).finish v (.noEffect v.pc) (v.pc + 4#64)

end Sys2Proof.Machine
end

