-- ==== Sys2Proof/Machine/MulDiv.lean ====
section
/-! DEFINITION. Multiply and divide (41_muldiv.md R200 to R215). Products and quotients are computed on integers and narrowed at
the end; division truncates toward zero. Under the sentinel condition every divide and remainder writes all ones (R202). -/

namespace Sys2Proof.Machine

/-- Bits [127:64] of an exact product, as a 128-bit two's-complement value (R204). -/
def highHalf (product : Int) : Word := (BitVec.ofInt 128 product).extractLsb' 64 64

/-- `sentinel ? ONES64 : value` (R202, R208). -/
def orSentinel (sentinel : Bool) (value : Word) : Word := if sentinel then ones64 else value

/-- `MUL rd, rs1, rs2` (R203): `trunc_64(a * b)`. -/
def execMul (rd _rs1 _rs2 : Reg) (s : State) : Result :=
  execResult rd (fun v => v.a * v.b) s

/-- `MULH rd, rs1, rs2` (R204): `(signed(a) * signed(b))[127:64]`. -/
def execMulh (rd _rs1 _rs2 : Reg) (s : State) : Result :=
  execResult rd (fun v => highHalf (v.a.toInt * v.b.toInt)) s

/-- `MULHSU rd, rs1, rs2` (R205): `(signed(a) * unsigned(b))[127:64]`. -/
def execMulhsu (rd _rs1 _rs2 : Reg) (s : State) : Result :=
  execResult rd (fun v => highHalf (v.a.toInt * (v.b.toNat : Int))) s

/-- `MULHU rd, rs1, rs2` (R206): `(unsigned(a) * unsigned(b))[127:64]`. -/
def execMulhu (rd _rs1 _rs2 : Reg) (s : State) : Result :=
  execResult rd (fun v => highHalf ((v.a.toNat : Int) * (v.b.toNat : Int))) s

/-- `MULW rd, rs1, rs2` (R207): `sext_32(trunc_32(trunc_32(a) * trunc_32(b)))`. -/
def execMulw (rd _rs1 _rs2 : Reg) (s : State) : Result :=
  execResult rd (fun v => sext32 (trunc32 v.a * trunc32 v.b)) s

/-- `DIV rd, rs1, rs2` (R208): the signed quotient, rounded toward zero. -/
def execDiv (rd _rs1 _rs2 : Reg) (s : State) : Result :=
  execResult rd (fun v => orSentinel (sentinel64 v.a v.b) (BitVec.ofInt 64 (v.a.toInt.tdiv v.b.toInt))) s

/-- `DIVU rd, rs1, rs2` (R209): the unsigned quotient. -/
def execDivu (rd _rs1 _rs2 : Reg) (s : State) : Result :=
  execResult rd (fun v => orSentinel (sentinelU64 s.params v.a v.b) (BitVec.ofNat 64 (v.a.toNat / v.b.toNat))) s

/-- `REM rd, rs1, rs2` (R210): the signed remainder, `signed(a) - signed(b) * trunc(signed(a) / signed(b))`. -/
def execRem (rd _rs1 _rs2 : Reg) (s : State) : Result :=
  execResult rd (fun v => 
    orSentinel (sentinel64 v.a v.b)
      (BitVec.ofInt 64 (v.a.toInt - v.b.toInt * v.a.toInt.tdiv v.b.toInt))) s

/-- `REMU rd, rs1, rs2` (R211): the unsigned remainder. -/
def execRemu (rd _rs1 _rs2 : Reg) (s : State) : Result :=
  execResult rd (fun v => orSentinel (sentinelU64 s.params v.a v.b) (BitVec.ofNat 64 (v.a.toNat % v.b.toNat))) s

/-- `DIVW rd, rs1, rs2` (R212): the signed quotient of the low 32 bits, sign-extended. -/
def execDivw (rd _rs1 _rs2 : Reg) (s : State) : Result :=
  execResult rd (fun v => 
    orSentinel (sentinel32 (trunc32 v.a) (trunc32 v.b))
      (sext32 (BitVec.ofInt 32 ((trunc32 v.a).toInt.tdiv (trunc32 v.b).toInt)))) s

/-- `DIVUW rd, rs1, rs2` (R213): the unsigned quotient of the low 32 bits, sign-extended. -/
def execDivuw (rd _rs1 _rs2 : Reg) (s : State) : Result :=
  execResult rd (fun v => 
    orSentinel (sentinelU32 s.params (trunc32 v.a) (trunc32 v.b))
      (sext32 (BitVec.ofNat 32 ((trunc32 v.a).toNat / (trunc32 v.b).toNat)))) s

/-- `REMW rd, rs1, rs2` (R214): the signed remainder of the low 32 bits, sign-extended. -/
def execRemw (rd _rs1 _rs2 : Reg) (s : State) : Result :=
  execResult rd (fun v => 
    orSentinel (sentinel32 (trunc32 v.a) (trunc32 v.b))
      (sext32 (BitVec.ofInt 32
        ((trunc32 v.a).toInt - (trunc32 v.b).toInt * (trunc32 v.a).toInt.tdiv (trunc32 v.b).toInt)))) s

/-- `REMUW rd, rs1, rs2` (R215): the unsigned remainder of the low 32 bits, sign-extended. -/
def execRemuw (rd _rs1 _rs2 : Reg) (s : State) : Result :=
  execResult rd (fun v => 
    orSentinel (sentinelU32 s.params (trunc32 v.a) (trunc32 v.b))
      (sext32 (BitVec.ofNat 32 ((trunc32 v.a).toNat % (trunc32 v.b).toNat)))) s

end Sys2Proof.Machine
end

