-- ==== Sys2Proof/Machine/Cache.lean ====
section
/-! DEFINITION. The set-associative caches (20_memory.md R94 to R107): address split, lookup, the victim choice and row
updates shared by both instances. -/

namespace Sys2Proof.Machine

/-! ## Address split (R94) -/

/-- The offset in the line, `pa[log2 L - 1 : 0]`. -/
def lineOffset (lineSize : Nat) (pa : PAddr) : Nat := pa.toNat % lineSize

/-- The set index, `pa[log2 L + log2 R - 1 : log2 L]`. -/
def lineIndex (lineSize rows : Nat) (pa : PAddr) : Nat := pa.toNat / lineSize % rows

/-- The tag, `pa[31 : log2 L + log2 R]`. -/
def lineTag (lineSize rows : Nat) (pa : PAddr) : Nat := pa.toNat / lineSize / rows

/-- The address of the line's first byte, `pa` with the offset bits cleared (R101). -/
def lineBase (lineSize : Nat) (pa : PAddr) : Nat := pa.toNat / lineSize * lineSize

/-- The physical address of a row's line, `tag ++ index ++ 0` (R99). -/
def rowAddress (lineSize rows index tag : Nat) : PAddr := BitVec.ofNat 32 ((tag * rows + index) * lineSize)

/-! ## Sets (R95, R96) -/

/-- The ways of the set at an index. -/
def Cache.ways (c : Cache) (index : Nat) : List Line := c.getD index []

/-- The row at an index and way. -/
def Cache.line (c : Cache) (lineSize index way : Nat) : Line := (c.ways index).getD way (Line.empty lineSize)

/-- Replaces the row at an index and way. -/
def Cache.setLine (c : Cache) (index way : Nat) (l : Line) : Cache := c.set index ((c.ways index).set way l)

/-- The way that hits: `valid = 1` and the tag equal (R95). -/
def hitWay (ways : List Line) (tag : Nat) : Option Nat := ways.findIdx? fun l => l.valid && l.tag == tag

/-- The slice of `n` bytes at an offset of a line, low-addressed byte first (R96). -/
def slice (data : List (Option Byte)) (offset n : Nat) : List (Option Byte) := (data.drop offset).take n

/-- Replaces the slice at an offset of a line (R103). -/
def putSlice (data : List (Option Byte)) (offset : Nat) (bytes : List (Option Byte)) : List (Option Byte) :=
  data.take offset ++ bytes ++ data.drop (offset + bytes.length)

/-! ## Victim (R98) -/

/-- The candidate ways: the invalid ones if any; else, under write-back, the clean ones if any; else every way. -/
def victimCandidates (writeBack : Bool) (ways : List Line) : List Nat :=
  let all := List.range ways.length
  let invalid := all.filter fun i => !(ways.getD i (Line.empty 0)).valid
  let clean := all.filter fun i => !(ways.getD i (Line.empty 0)).dirty
  if invalid ≠ [] then invalid else if writeBack && clean ≠ [] then clean else all

/-- The victim way: the one candidate, or the draw `VictimTie` among several (R98, assumption 7). -/
def pickVictim (s : State) (candidates : List Nat) : Nat × State :=
  match candidates with
  | [] => (0, s)
  | [w] => (w, s)
  | _ => ((candidates.getD (s.drawVictim.1 % candidates.length) 0), s.drawVictim.2)

end Sys2Proof.Machine
end

