-- ==== Sys2Proof/Machine/Translate.lean ====
section
/-! DEFINITION. Address translation: the two TLB instances and their page walk (20_memory.md R78 to R93). -/

namespace Sys2Proof.Machine

/-! ## Virtual-address fields (R80) -/

/-- The virtual page number `VPN = va[31:12]`. -/
def vpn (va : Word) : BitVec 20 := va.extractLsb' 12 20

/-- The superpage number `SP = VPN >> 2 = va[31:14]`. -/
def superpage (va : Word) : BitVec 18 := va.extractLsb' 14 18

/-- The TLB slot `VPN[4:2]`. -/
def vpnSlot (va : Word) : BitVec 3 := (vpn va).extractLsb' 2 3

/-- A superpage's own slot index `SP[2:0]`. -/
def spSlot (sp : BitVec 18) : BitVec 3 := sp.extractLsb' 0 3

/-- The superpage offset `off = va[13:0]`. -/
def superpageOffset (va : Word) : BitVec 14 := va.extractLsb' 0 14

/-! ## Page-table entries (R83 to R87, R92) -/

/-- The valid bit, bit 31. -/
def pteValid (e : Word32) : Bool := e.getLsbD 31

/-- The table number or physical superpage number, bits [17:0]. -/
def pteNumber (e : Word32) : BitVec 18 := e.extractLsb' 0 18

/-- The first-level entry's address `(PTBR + (SP >> 8) * 4) mod 2^32` (R83). -/
def level1Address (ptbr : PAddr) (sp : BitVec 18) : PAddr := ptbr + (sp.setWidth 32 >>> 8) * 4#32

/-- The second-level entry's address `((pte1[17:0] << 14) + SP[7:0] * 4) mod 2^32` (R85). -/
def level2Address (pte1 : Word32) (sp : BitVec 18) : PAddr :=
  ((pteNumber pte1).setWidth 32 <<< 14) + ((sp.extractLsb' 0 8).setWidth 32) * 4#32

/-- The entry a page-table read returns: 4 bytes, little-endian (R66, R67). -/
def pteOf (address : Nat) (bytes : List (Option Byte)) : Word32 :=
  BitVec.ofNat 32 (leValue (resolveBytes address bytes))

/-! ## The two instances (R79) -/

/-- The TLB of a side. -/
def State.tlb (s : State) : Side → Tlb
  | .instr => s.itlb
  | .data => s.dtlb

/-- Replaces the TLB of a side. -/
def State.setTlb (s : State) : Side → Tlb → State
  | .instr, t => { s with itlb := t }
  | .data, t => { s with dtlb := t }

/-- The slot a virtual address selects (R80). -/
def Tlb.slotFor (t : Tlb) (va : Word) : TlbSlot := t.slots[(vpnSlot va).toNat]

/-- Writes `L2A` (R85, R89). -/
def Tlb.setL2a (t : Tlb) (a : PAddr) : Tlb := { t with l2a := a }

/-- Installs a fresh slot, evicting whatever was there (R87). -/
def Tlb.install (t : Tlb) (i : BitVec 3) (slot : TlbSlot) : Tlb := { t with slots := t.slots.set i.toNat slot }

/-! ## One cycle of translation (R90) -/

/-- The outcomes of a cycle of translation. -/
inductive TransResult where
  /-- A TLB hit: no call was made (R82). -/
  | hit (pa : PAddr)
  /-- The walk finished in this cycle and spent the side's call (R87). -/
  | done (s : State) (pa : PAddr)
  /-- A call was made or none was possible; the status records the progress (R91). -/
  | retry (s : State) (step : WalkStep) (issued : Bool)
  /-- An entry's bit 31 is 0 (R84, R86). -/
  | pageFault (s : State)
  /-- The install slot differs from the superpage's own index (R88). -/
  | slotMismatch (s : State)
  /-- The walk reads outside the backing store, or a byte in `STORED` (R71, R72). -/
  | stop (x : Stop)
  deriving DecidableEq, Repr

/-- The address the walk reads in a step: the first-level entry's, or `L2A` (R83, R89). -/
def walkAddress (s : State) (side : Side) (step : WalkStep) (va : Word) : PAddr :=
  match step with
  | .first => level1Address s.ptbr (superpage va)
  | .second => (s.tlb side).l2a

/-- What a completed page-table read does: fault, go on to the second level, or install the slot (R84 to R88). -/
def walkEntry (side : Side) (step : WalkStep) (va : Word) (e : Word32) (s : State) : TransResult :=
  if !pteValid e then .pageFault s
  else
    match step with
    | .first => .retry (s.setTlb side ((s.tlb side).setL2a (level2Address e (superpage va)))) .second false
    | .second =>
      if vpnSlot va ≠ spSlot (superpage va) then .slotMismatch s
      else
        .done
          (s.setTlb side
            ((s.tlb side).install (vpnSlot va) { valid := true, tag := superpage va, ppn := pteNumber e }))
          (pteNumber e ++ superpageOffset va)

/-- `Translate(side, va, status)` (R90): `walk` is the walk in progress, `spent` whether the side's call of the cycle is
spent, `mem` the backing store at the start of the cycle. A page-table read that touches a byte in `STORED` is refused
(R72). -/
def translate (side : Side) (mem : Memory) (spent : Bool) (walk : Option (WalkStep × Bool)) (va : Word) (s : State) :
    TransResult :=
  let slot := (s.tlb side).slotFor va
  if slot.valid && slot.tag == superpage va then .hit (slot.ppn ++ superpageOffset va)
  else
    let (step, issued) := walk.getD (.first, false)
    let addr := (walkAddress s side step va).toNat
    if spent then .retry s step issued
    else if storedTouches s.stored addr 4 then .stop (.refuse (.storedByte addr))
    else
      match physRead s mem issued addr 4 with
      | .stop f => .stop (.fault f)
      | .pending s' => .retry s' step true
      | .done s' bytes => walkEntry side step va (pteOf addr bytes) s'

end Sys2Proof.Machine
end

