-- ==== Sys2Proof/Machine/MemoryStage.lean ====
section
/-! DEFINITION. The memory stage (70_reset_and_hazards.md R380 to R386) with the data-side access of 20_memory.md R100 to
R108: alignment, data TLB, data cache, and the resumable status `MS`. Memory-stage accesses use `tlb_d_side` and the data
cache only (R382). -/

namespace Sys2Proof.Machine

/-- The access a load or store descriptor asks for. -/
inductive DataOp where
  | load (size : AccessSize)
  | store (size : AccessSize) (value : Word)
  deriving DecidableEq, Repr

/-- The access size. -/
def DataOp.size : DataOp → AccessSize
  | .load size => size
  | .store size _ => size

/-- What a cycle of the data side gives (R107). -/
inductive DataResult where
  /-- The cache served the access: the slice a load reads, and whether the side's call of the cycle is spent. -/
  | served (s : State) (bytes : List (Option Byte)) (spent : Bool)
  /-- The access goes on in the next cycle, from `MS` (R102, R383). -/
  | stall (s : State)
  | stop (x : Stop)
  deriving DecidableEq, Repr

/-! ## The data cache (R96 to R105) -/

/-- Bytes a store writes, as bytes that hold a value. -/
def knownBytes (size : AccessSize) (value : Word) : List (Option Byte) := (storeBytes size value).map some

/-- The set index of a data-cache access. -/
def State.dIndex (s : State) (pa : PAddr) : Nat := lineIndex Config.dline s.params.dcacheRows pa

/-- The tag of a data-cache access. -/
def State.dTag (s : State) (pa : PAddr) : Nat := lineTag Config.dline s.params.dcacheRows pa

/-- The row at the set of an address. -/
def State.dLine (s : State) (pa : PAddr) (way : Nat) : Line := s.dcache.line Config.dline (s.dIndex pa) way

/-- Replaces the row at the set of an address. -/
def State.setDLine (s : State) (pa : PAddr) (way : Nat) (l : Line) : State :=
  { s with dcache := s.dcache.setLine (s.dIndex pa) way l }

/-- The dirty bit is used only under write-back (R39). -/
def State.writeBack (s : State) : Bool := s.params.dcachePolicy == .writeBack

/-- A store mutates the slice of a line in place, marking it dirty under write-back (R103, R104); its bytes join `STORED`
(R72). -/
def mutateLine (s : State) (pa : PAddr) (way : Nat) (size : AccessSize) (value : Word) : State :=
  let l := s.dLine pa way
  (s.setDLine pa way
    { l with
      data := putSlice l.data (lineOffset Config.dline pa) (knownBytes size value)
      dirty := s.writeBack || l.dirty }).markStored pa.toNat size.bytes

/-- The write-through of a store that hits (R104): the store completes, and the slice is replaced, in the cycle the write
completes; until then the stage stalls with status `DWriteThrough`. A spent call leaves the write for the next cycle
(assumption 10). -/
def writeThroughStep (s : State) (pa : PAddr) (way : Nat) (size : AccessSize) (value : Word) (issued spent : Bool) :
    DataResult :=
  if spent then .stall { s with ms := .dWriteThrough pa false }
  else
    match physWrite s issued pa.toNat (knownBytes size value) with
    | .stop f => .stop (.fault f)
    | .pending s' => .stall { s' with ms := .dWriteThrough pa true }
    | .done s' _ => .served { mutateLine s' pa way size value with ms := .idle } [] true

/-- Serving an access from the way that holds its line (R96, R103, R104). -/
def serveHit (s : State) (op : DataOp) (pa : PAddr) (way : Nat) (spent : Bool) : DataResult :=
  match op with
  | .load size =>
    .served { s with ms := .idle } (slice (s.dLine pa way).data (lineOffset Config.dline pa) size.bytes) spent
  | .store size value =>
    if s.writeBack then .served { mutateLine s pa way size value with ms := .idle } [] spent
    else
      writeThroughStep s pa way size value
        (match s.ms with
          | .dWriteThrough _ issued => issued
          | _ => false)
        spent

/-- An 8-byte store that misses installs its line from the store value, without a fill (R105), then proceeds as a hit. -/
def installStore (s : State) (pa : PAddr) (way : Nat) (value : Word) (spent : Bool) : DataResult :=
  serveHit
    ((s.setDLine pa way
      { valid := true, tag := s.dTag pa, data := knownBytes .b8 value, dirty := false }).markStored pa.toNat 8)
    (.store .b8 value) pa way spent

/-- A cycle of the fill (R101), or the install of an 8-byte store (R105). When the read completes the line is installed
clean and the access is served in the same cycle. -/
def fillStep (s : State) (op : DataOp) (pa : PAddr) (way : Nat) (issued : Bool) : DataResult :=
  match op with
  | .store .b8 value => installStore s pa way value false
  | _ =>
    match physRead s s.pmem issued (lineBase Config.dline pa) Config.dline with
    | .stop f => .stop (.fault f)
    | .pending s' => .stall { s' with ms := .dFill pa way true }
    | .done s' bytes =>
      serveHit (s'.setDLine pa way { valid := true, tag := s'.dTag pa, data := bytes, dirty := false }) op pa way true

/-- A cycle of the write-back of a dirty victim (R99). When it completes the victim is invalid and clean; an 8-byte store
then installs its line in the same cycle, every other access fills in the next (R108). -/
def evictStep (s : State) (op : DataOp) (pa : PAddr) (way : Nat) (victimPa : PAddr) (issued : Bool) : DataResult :=
  match physWrite s issued victimPa.toNat (s.dLine pa way).data with
  | .stop f => .stop (.fault f)
  | .pending s' => .stall { s' with ms := .dEvict pa way victimPa true }
  | .done s' _ =>
    let s' := s'.setDLine pa way { s'.dLine pa way with valid := false, dirty := false }
    match op with
    | .store .b8 value => installStore s' pa way value true
    | _ => .stall { s' with ms := .dFill pa way false }

/-- The first cycle of a miss: the victim is chosen once (R97, R98), written back first if it is valid and dirty (R99). -/
def startMiss (s : State) (op : DataOp) (pa : PAddr) : DataResult :=
  let (way, s') := pickVictim s (victimCandidates s.writeBack (s.dcache.ways (s.dIndex pa)))
  let victim := s'.dLine pa way
  if s'.writeBack && victim.valid && victim.dirty then
    evictStep s' op pa way (rowAddress Config.dline s'.params.dcacheRows (s'.dIndex pa) victim.tag) false
  else fillStep s' op pa way false

/-- A cycle of the data cache at a translated address (R100 step 3): a hit is served; a miss whose call is spent waits
(`DDeferred`); otherwise the sequence goes on from `MS`. -/
def dcacheAccess (s : State) (op : DataOp) (pa : PAddr) (spent : Bool) : DataResult :=
  match hitWay (s.dcache.ways (s.dIndex pa)) (s.dTag pa) with
  | some way => serveHit s op pa way spent
  | none =>
    if spent then .stall { s with ms := .dDeferred pa }
    else
      match s.ms with
      | .dEvict _ way victimPa issued => evictStep s op pa way victimPa issued
      | .dFill _ way issued => fillStep s op pa way issued
      | .idle => startMiss s op pa
      | .dTlb _ _ => startMiss s op pa
      | .dDeferred _ => startMiss s op pa
      | .dWriteThrough _ _ => startMiss s op pa

/-! ## The stage (R380) -/

/-- The memory stage's outcome of a cycle (R331, R380). -/
inductive MemResult where
  /-- The next `W`, and whether the data side's call of the cycle is spent (R64). -/
  | out (s : State) (mout : WLatch) (spent : Bool)
  /-- A global memory stall (R383, R392). -/
  | stall (s : State)
  /-- A halt reason (R303). -/
  | halt (s : State) (reason : HaltReason) (pc va : Word)
  | stop (x : Stop)
  deriving DecidableEq, Repr

/-- A load's or store's result as the stage's outcome: a served access is the next `W`. -/
def DataResult.toMem (r : DataResult) (mout : List (Option Byte) → WLatch) : MemResult :=
  match r with
  | .served s bytes spent => .out s (mout bytes) spent
  | .stall s => .stall s
  | .stop x => .stop x

/-- Translation, then the cache: the cases of `MS` that hold a translated address skip translation (R100, R342). -/
def translateAndAccess (s : State) (op : DataOp) (pc va : Word) (walk : Option (WalkStep × Bool))
    (mout : PAddr → List (Option Byte) → WLatch) : MemResult :=
  match translate .data s.pmem false walk va s with
  | .hit pa => (dcacheAccess s op pa false).toMem (mout pa)
  | .done s' pa => (dcacheAccess s' op pa true).toMem (mout pa)
  | .retry s' step issued => .stall { s' with ms := .dTlb step issued }
  | .pageFault s' => .halt s' (.pageFault .data) pc va
  | .slotMismatch s' => .halt s' .tlbSlotMismatch pc va
  | .stop x => .stop x

/-- The data-side access of a load or store: the alignment test first, before any translation or call (R100, R306, R309). -/
def dataAccess (s : State) (op : DataOp) (pc va : Word) (mout : PAddr → List (Option Byte) → WLatch) : MemResult :=
  if misalignedData va op.size then .halt s (.misaligned .data) pc va
  else
    match s.ms with
    | .idle => translateAndAccess s op pc va none mout
    | .dTlb step issued => translateAndAccess s op pc va (some (step, issued)) mout
    | .dDeferred pa => (dcacheAccess s op pa false).toMem (mout pa)
    | .dEvict pa _ _ _ => (dcacheAccess s op pa false).toMem (mout pa)
    | .dFill pa _ _ => (dcacheAccess s op pa false).toMem (mout pa)
    | .dWriteThrough pa _ => (dcacheAccess s op pa false).toMem (mout pa)

/-- The value a load delivers: the slice's little-endian value, extended (R262). -/
def loadValue (size : AccessSize) (signed : Bool) (pa : PAddr) (bytes : List (Option Byte)) : Word :=
  extendSlice size signed (leValue (resolveBytes pa.toNat bytes))

/-- `MemoryStage(M, MS)` (R380). DESIGN CHOICE (assumption 21): R380 gives the next `W` no value where `rd = none` (a store, an
effectless descriptor); the model puts 0 there, and nothing reads it. -/
def memoryStage (s : State) : MemResult :=
  match s.m with
  | .bubble => .out { s with ms := .idle } .bubble false
  | .reg pc rd value => .out { s with ms := .idle } (.retire pc rd value) false
  | .noEffect pc => .out { s with ms := .idle } (.retire pc none 0#64) false
  | .token pc fault => .halt s fault.reason pc pc
  | .load pc rd va size signed =>
    dataAccess s (.load size) pc va fun pa bytes => .retire pc rd (loadValue size signed pa bytes)
  | .store pc va size value => dataAccess s (.store size value) pc va fun _ _ => .retire pc none 0#64

end Sys2Proof.Machine
end

