-- ==== Sys2Proof/Machine/Cycle.lean ====
section
/-! DEFINITION. The fetch, decode and execute stages and the cycle of the pipeline sequencer (70_reset_and_hazards.md R330 to
R377, R390 to R401). A cycle computes the stages from writeback back to fetch (R331), each from the latches as they were at
the start of the cycle and the same-cycle signals. -/

namespace Sys2Proof.Machine

/-! ## Execute (R370) -/

/-- `ExecuteStage(X)`: a bubble, a fault token, or the meaning of `X.op` (R370, R371, R377). -/
def executeStage (s : State) : Result :=
  match s.x with
  | .bubble => .next { s with m := .bubble }
  | .token pc fault => .next { s with m := .token pc fault }
  | .instr v => exec v.op s

/-! ## Decode (R350 to R360) -/

/-- A source register 0 reads 0 under the default parameters, whatever is forwarded (R360). -/
def readsZero (p : Params) (r : Reg) : Bool := p.x0Hardwired && !p.x0ForwardQuirk && r == 0#5

/-- Operand resolution, steps (b) to (d): the memory stage's output, else latch `W`, else the register file (R356). -/
def resolveOperand (s : State) (mout : WLatch) (r : Reg) : Word :=
  if readsZero s.params r then 0#64
  else
    match mout, s.w with
    | .retire _ (some q) v, .retire _ (some q') v' => if q = r then v else if q' = r then v' else s.readReg r
    | .retire _ (some q) v, _ => if q = r then v else s.readReg r
    | _, .retire _ (some q') v' => if q' = r then v' else s.readReg r
    | _, _ => s.readReg r

/-- The hazard test, step (a), then the value: `none` when the instruction in execute targets the register and its value is
not yet available (R354). Under `EX_FORWARD` a register-write result of the execute stage is forwarded (R359). -/
def readOperand (s : State) (oldX : XLatch) (mout : WLatch) (r : Reg) : Option Word :=
  match oldX with
  | .instr v =>
    if v.rd = some r then
      match s.params.exForward, s.m with
      | true, .reg _ _ value => some (if readsZero s.params r then 0#64 else value)
      | _, _ => none
    else some (resolveOperand s mout r)
  | .bubble => some (resolveOperand s mout r)
  | .token _ _ => some (resolveOperand s mout r)

/-- A source the format does not read resolves to 0 (R145). -/
def readSource (s : State) (oldX : XLatch) (mout : WLatch) : Option Reg → Option Word
  | none => some 0#64
  | some r => readOperand s oldX mout r

/-- `DecodeStage`: `oldX` is latch `X` at the start of the cycle, `mout` the memory stage's output; `s.m` is the execute
stage's output `M'`. A hazard rewinds: `X'` is a bubble and the fetch stage fetches at `D.pc` again (R355, R341). An
instruction the execute stage killed is a bubble in `D` (R374). -/
def decodeStage (oldX : XLatch) (mout : WLatch) (s : State) : State :=
  match s.d with
  | .bubble => { s with x := .bubble }
  | .token pc fault => { s with x := .token pc fault }
  | .instr pc word predPc =>
    let op := decodeWord word
    match readSource s oldX mout (src1 op), readSource s oldX mout (src2 op) with
    | some a, some b =>
      { s with
        x := .instr
          { pc := pc, word := word, op := op, rd := dest op, a := a, b := b, imm := immValue op, predPc := predPc } }
    | _, _ => { s with x := .bubble, pc := pc, fs := .fresh }

/-! ## Fetch (R334 to R349) -/

/-- The set index of an instruction-cache access. -/
def State.iIndex (s : State) (pa : PAddr) : Nat := lineIndex Config.iline s.params.icacheRows pa

/-- The tag of an instruction-cache access. -/
def State.iTag (s : State) (pa : PAddr) : Nat := lineTag Config.iline s.params.icacheRows pa

/-- Success: the word of the line, the predicted next PC, and a fresh status (R344, R345). A word that touches a byte in
`STORED` is refused (R72). -/
def icacheServe (bp : Vector BpEntry 32) (pa : PAddr) (data : List (Option Byte)) (s : State) : Result :=
  if storedTouches s.stored pa.toNat 4 then .refused (.storedByte pa.toNat)
  else
    let word := BitVec.ofNat 32 (leValue (resolveBytes pa.toNat (slice data (lineOffset Config.iline pa) 4)))
    let p := predict s.params bp s.pc
    .next { s with d := .instr s.pc word p, pc := p, fs := .fresh }

/-- A cycle of an instruction-cache fill (R343): the status records the way and that the request is issued; when the read
completes the line is installed and the word served. -/
def icacheFill (bp : Vector BpEntry 32) (mem : Memory) (pa : PAddr) (way : Nat) (issued : Bool) (s : State) : Result :=
  match physRead s mem issued (lineBase Config.iline pa) Config.iline with
  | .stop f => .fault f
  | .pending s' => .next { s' with d := .bubble, fs := .iFill pa way true }
  | .done s' bytes =>
    icacheServe bp pa bytes
      { s' with
        icache := s'.icache.setLine (s'.iIndex pa) way
          { valid := true, tag := s'.iTag pa, data := bytes, dirty := false } }

/-- The status of a fetch that misses with its call spent (R338, R342): `IDeferred`; a fill in progress keeps its status
under the other reading (R64, assumption 11). -/
def State.spentStatus (s : State) (pa : PAddr) : FetchStatus :=
  match s.fs, s.params.spentFill with
  | .iFill _ _ _, .keep => s.fs
  | _, _ => .iDeferred pa

/-- A cycle of the instruction cache at a translated address (R338): a hit is served; a miss whose call is spent waits
(R342, R346); otherwise the fill begins or goes on (R343). -/
def icacheAccess (bp : Vector BpEntry 32) (mem : Memory) (spent : Bool) (pa : PAddr) (s : State) : Result :=
  match hitWay (s.icache.ways (s.iIndex pa)) (s.iTag pa) with
  | some way => icacheServe bp pa (s.icache.line Config.iline (s.iIndex pa) way).data s
  | none =>
    if spent then .next { s with d := .bubble, fs := s.spentStatus pa }
    else
      match s.fs with
      | .iFill _ way issued => icacheFill bp mem pa way issued s
      | _ =>
        let (way, s') := pickVictim s (victimCandidates false (s.icache.ways (s.iIndex pa)))
        icacheFill bp mem pa way false s'

/-- A fault token for the fetch address: the stage then holds (R347, R348). -/
def fetchFault (reason : HaltReason) (s : State) : State :=
  { s with d := .token s.pc { reason := reason, va := s.pc }, fs := .faulted }

/-- Translation of the fetch address, then the cache (R338, R342). -/
def fetchTranslate (bp : Vector BpEntry 32) (mem : Memory) (spent : Bool) (walk : Option (WalkStep × Bool)) (s : State) :
    Result :=
  match translate .instr mem spent walk s.pc s with
  | .hit pa => icacheAccess bp mem spent pa s
  | .done s' pa => icacheAccess bp mem true pa s'
  | .retry s' step issued => .next { s' with d := .bubble, fs := .iTlb step issued }
  | .pageFault s' => .next (fetchFault (.pageFault .instr) s')
  | .slotMismatch s' => .next (fetchFault .tlbSlotMismatch s')
  | .stop x => x.outcome

/-- `FetchStage(pcf, FS)` (R338), with `pcf` in the PC. `bp` is the predictor and `mem` the backing store at the start of
the cycle (R252, R16); `spent` says that the block's one call is spent (R64). -/
def fetchStage (bp : Vector BpEntry 32) (mem : Memory) (spent : Bool) (s : State) : Result :=
  match s.fs with
  | .faulted => .next { s with d := .bubble }
  | .iDeferred pa =>
    if misalignedFetch s.pc then .next (fetchFault (.misaligned .instr) s) else icacheAccess bp mem spent pa s
  | .iFill pa _ _ =>
    if misalignedFetch s.pc then .next (fetchFault (.misaligned .instr) s) else icacheAccess bp mem spent pa s
  | .fresh =>
    if misalignedFetch s.pc then .next (fetchFault (.misaligned .instr) s) else fetchTranslate bp mem spent none s
  | .iTlb step issued =>
    if misalignedFetch s.pc then .next (fetchFault (.misaligned .instr) s)
    else fetchTranslate bp mem spent (some (step, issued)) s

/-! ## The cycle (R332) -/

/-- The upstream half of a cycle, when the memory stage has output `mout`: execute, decode, fetch, then the latch `W`
(R332). `start` is the state at the start of the cycle. -/
def advance (start : State) (mout : WLatch) (dataSpent : Bool) (s : State) : Result :=
  match executeStage s with
  | .fault f => .fault f
  | .refused r => .refused r
  | .next s1 =>
    match
      fetchStage start.bp start.pmem (dataSpent && start.params.portSharing == .global) (decodeStage start.x mout s1)
    with
    | .fault f => .fault f
    | .refused r => .refused r
    | .next s2 => .next { s2 with w := mout }

/-- `Cycle(S)` (R332): a halted machine changes no more (R305); writeback commits `W` (R400); then the memory stage decides
between a halt, a freeze (R392) and a full cycle. -/
def cycle (s : State) : Result :=
  match s.halt with
  | .halted _ _ _ => .next s
  | .running =>
    match memoryStage s.writeback with
    | .stop x => x.outcome
    | .halt s1 reason pc va => .next (s1.raiseHalt reason pc va)
    | .stall s1 => .next { s1 with w := .bubble }
    | .out s1 mout dataSpent => advance s mout dataSpent s1

/-! ## Placing an instruction -/

/-- Places a word as the instruction the next cycle executes: latch `X` holds it as the decode stage would write it for
the word at the PC, predicted to fall through, and the rest of the pipeline is empty, so that nothing holds it back. The
backing store does not answer in that cycle, so the fetch of the next word waits (assumption 12). -/
def placeInstr (s : State) (word : Word32) : State :=
  let s1 : State :=
    { s with
      halt := .running
      ms := .idle
      m := .bubble
      x := .bubble
      d := .instr s.pc word (s.pc + 4#64)
      pc := s.pc + 4#64
      fs := .fresh }
  { decodeStage .bubble .bubble s1 with d := .bubble, latency := false :: s.latency }

end Sys2Proof.Machine
end

