-- ==== Sys2Proof/Machine/Step.lean ====
section
/-! DEFINITION. One step of the machine is one clock cycle of the block (70_reset_and_hazards.md R330 to R333, assumption
13). -/

namespace Sys2Proof.Machine

/-- One cycle. -/
def step (s : State) : Host.Outcome State Fault Refusal := cycle s

/-- `s` with the instruction whose bits are `w` (zero above `nbits`) as the one the next step executes (assumption 12). -/
def State.withFetchWord (s : State) (nbits w : Nat) : State := placeInstr s (BitVec.ofNat 32 (w % 2 ^ nbits))

end Sys2Proof.Machine
end

