-- ==== Sys2Proof/Safety.lean ====
section
/-! DEFINITION. The terms in which claims about runs are made: running and halted states, the invariants of the block, memory as
loads observe it (00_scope.md R12, 60_exceptions.md R319), the page table as the walk reads it, the architectural register
values and next instruction of a pipeline state, and the scalar interpreter they are compared with (40_integer.md R184). -/

namespace Sys2Proof.Machine

/-! ## What execution leaves -/

/-- The state an instruction `v` in latch `X` leaves for decode and fetch when it writes `m'` into latch `M` and goes to
`nextPc`: a mispredicted one corrects the PC, resets the fetch status and kills the instruction in `D` (R372, R374). -/
def State.executed (s : State) (v : XInstr) (m' : MLatch) (nextPc : Word) : State :=
  if nextPc = v.predPc then { s with m := m' } else { s with m := m', pc := nextPc, fs := .fresh, d := .bubble }

/-- The outcome of a result-writing instruction: latch `M` holds the register write, the next PC is `pc + 4` (R150, R200). -/
def State.withResult (s : State) (v : XInstr) (rd : Reg) (result : Word) : Result :=
  .next (s.executed v (.reg v.pc (some rd) result) (v.pc + 4#64))

/-- The outcome of a control transfer to `nextPc` with taken target `target`: the predictor update of R249 is made as
well. -/
def State.withTransfer (s : State) (v : XInstr) (m' : MLatch) (nextPc target : Word) : Result :=
  .next (({ s with bp := bpResolve s.params s.bp v.pc nextPc target } : State).executed v m' nextPc)

/-! ## Running and halted (R305) -/

/-- The machine has not halted. -/
def State.running (s : State) : Bool := s.halt == .running

/-- The states a run passes through from `s`. -/
inductive Reaches : State → State → Prop where
  | refl (s : State) : Reaches s s
  | tail {s t u : State} (h : Reaches s t) (hs : step t = .next u) : Reaches s u

/-- The data side waits on the backing store with one status (R37). -/
def State.dataWaits (s : State) : Bool := s.running && s.ms != .idle

/-- The instruction side polls an issued request in this cycle: the memory stage neither stalls nor halts, and leaves the
call (R61, R64, R336). -/
def State.instrPolls (s : State) : Bool :=
  s.running
    && (match memoryStage s.writeback with
      | .out _ _ spent => !(spent && s.params.portSharing == .global)
      | _ => false)
    && (match s.fs with
      | .iTlb _ issued => issued
      | .iFill _ _ issued => issued
      | _ => false)

/-- Weak fairness of the oracle `MemLatency` on a run (R62): no request is polled for ever without completing. It is an
assumption on the harness, and no statement of the model rests on it. -/
def WeaklyFair (run : Nat → State) : Prop :=
  (∀ n, step (run n) = .next (run (n + 1))) ∧
    (¬∃ n, ∀ k, n ≤ k → (run k).dataWaits = true ∧ (run k).ms = (run n).ms) ∧
      ¬∃ n, ∀ k, n ≤ k → (run k).instrPolls = true ∧ (run k).fs = (run n).fs

/-! ## Well-formed memories and caches -/

/-- Strictly rising addresses. -/
def risingNats : List Nat → Bool
  | [] => true
  | [_] => true
  | a :: b :: rest => decide (a < b) && risingNats (b :: rest)

/-- The address of a row's line (R99). -/
def Line.address (lineSize rows index : Nat) (l : Line) : Nat := (l.tag * rows + index) * lineSize

/-- A cache has the rows, ways and line size its parameters give it (R39). -/
def Cache.shaped (lineSize rows ways : Nat) (c : Cache) : Bool :=
  c.length == rows && c.all fun set => set.length == ways && set.all fun l => l.data.length == lineSize

/-- At most one way of a set holds a given tag (R95). -/
def Cache.uniqueTags (c : Cache) : Bool :=
  c.all fun set => decide (((set.filter fun l => l.valid).map fun l => l.tag).Nodup)

/-- Every valid row of every set, with its index. -/
def Cache.allValid (c : Cache) (p : Nat → Line → Bool) : Bool :=
  c.zipIdx.all fun si => si.1.all fun l => !l.valid || p si.2 l

/-- Every valid row's line lies in the 32-bit physical space (R94). -/
def Cache.addressed (lineSize rows : Nat) (c : Cache) : Bool :=
  c.allValid fun i l => decide (l.address lineSize rows i < 2 ^ 32)

/-- The bytes of a line that no store has written are those of the backing store (R72, R101). -/
def unstoredMatch (s : State) : Nat → List (Option Byte) → Bool
  | _, [] => true
  | a, b :: bs => (s.stored.contains a || b == s.pmem.read a) && unstoredMatch s (a + 1) bs

/-- The data line of an 8-byte store that is being written through: it holds the store's bytes before the backing store
does (R104, R105). -/
def State.writingThrough (s : State) (address : Nat) : Bool :=
  match s.m, s.ms with
  | .store _ _ .b8 _, .dWriteThrough pa _ => address == lineBase Config.dline pa
  | _, _ => false

/-- A clean data line holds the bytes of the backing store (R99, R101, R104). -/
def State.cleanLinesMatch (s : State) : Bool :=
  s.dcache.allValid fun i l =>
    l.dirty || s.writingThrough (l.address Config.dline s.params.dcacheRows i)
      || l.data == s.pmem.readBytes (l.address Config.dline s.params.dcacheRows i) Config.dline

/-- No address of the backing store is listed outside it (R46, R60). -/
def State.memoryBounded (s : State) : Bool := s.pmem.all fun c => decide (c.1 < s.params.pmemSize)

/-- The memories and caches of a state are well formed, and coherent as far as 20_memory.md R72 asks. -/
def State.memoryInv (s : State) : Bool :=
  s.params.wf && s.pmem.wf && s.memoryBounded && risingNats s.stored
    && s.icache.shaped Config.iline s.params.icacheRows s.params.icacheWays && s.icache.uniqueTags
    && s.icache.addressed Config.iline s.params.icacheRows
    && s.dcache.shaped Config.dline s.params.dcacheRows s.params.dcacheWays && s.dcache.uniqueTags
    && s.dcache.addressed Config.dline s.params.dcacheRows
    && s.icache.allValid (fun i l => unstoredMatch s (l.address Config.iline s.params.icacheRows i) l.data)
    && s.dcache.allValid (fun i l => unstoredMatch s (l.address Config.dline s.params.dcacheRows i) l.data)
    && s.cleanLinesMatch
    && s.icache.all (fun set => set.all fun l => !l.dirty)
    && (s.writeBack || s.dcache.all fun set => set.all fun l => !l.dirty)

/-! ## Consistent latches and status registers -/

/-- Latch `X` holds what the decoder gives for its word (R353, R358); `X.imm` of an instruction without an immediate is left
open. -/
def State.decodedX (s : State) : Bool :=
  match s.x with
  | .instr v => v.op == decodeWord v.word && v.rd == dest v.op && (immediate v.op).all (· == v.imm)
  | .bubble => true
  | .token _ _ => true

/-- The virtual address of the access in `M`. -/
def MLatch.access : MLatch → Option (Word × AccessSize)
  | .load _ _ va size _ => some (va, size)
  | .store _ va size _ => some (va, size)
  | .bubble => none
  | .reg _ _ _ => none
  | .noEffect _ => none
  | .token _ _ => none

/-- A physical address agrees with a virtual one in the bits translation preserves (R87). -/
def samePageOffset (pa : PAddr) (va : Word) : Bool := pa.setWidth 14 == va.setWidth 14

/-- An access in `M` that can be in progress at a physical address: it is aligned and keeps its offset (R68, R87). -/
def State.accessAt (s : State) (pa : PAddr) : Bool :=
  match s.m.access with
  | some (va, size) => samePageOffset pa va && !misalignedData va size
  | none => false

/-- The status `MS` belongs to the access in `M` (R108): a walk or a fill is the access's own, the line a victim eviction
writes back is the victim's, and a line about to be overwritten by a fill is not dirty. -/
def State.statusOfM (s : State) : Bool :=
  match s.ms with
  | .idle => true
  | .dTlb _ _ => s.m.access.isSome
  | .dDeferred pa => s.accessAt pa
  | .dEvict pa way victimPa _ =>
    s.accessAt pa && decide (way < s.params.dcacheWays) && s.writeBack && (s.dLine pa way).valid && (s.dLine pa way).dirty
      && victimPa.toNat == (s.dLine pa way).address Config.dline s.params.dcacheRows (s.dIndex pa)
  | .dFill pa way _ =>
    s.accessAt pa && decide (way < s.params.dcacheWays) && !((s.dLine pa way).valid && (s.dLine pa way).dirty)
  | .dWriteThrough pa _ =>
    s.accessAt pa && !s.writeBack && (hitWay (s.dcache.ways (s.dIndex pa)) (s.dTag pa)).isSome
      && (match s.m with
        | .store _ _ _ _ => true
        | _ => false)

/-- The status `FS` belongs to the fetch at the PC (R36, R341): a translated address keeps the PC's offset, and the fetch is
aligned. -/
def State.statusOfPc (s : State) : Bool :=
  match s.fs with
  | .fresh => true
  | .faulted => true
  | .iTlb _ _ => !misalignedFetch s.pc
  | .iDeferred pa => samePageOffset pa s.pc && !misalignedFetch s.pc
  | .iFill pa way _ => samePageOffset pa s.pc && !misalignedFetch s.pc && decide (way < s.params.icacheWays)

/-- The block's structural invariant. -/
def Inv (s : State) : Prop :=
  s.memoryInv = true ∧ s.decodedX = true ∧ s.statusOfM = true ∧ s.statusOfPc = true

/-- No latch and no halt record carries the internal error of R88 (R307). -/
def State.noMismatch (s : State) : Prop :=
  (∀ pc f, s.d = .token pc f → f.reason ≠ .tlbSlotMismatch) ∧ (∀ pc f, s.x = .token pc f → f.reason ≠ .tlbSlotMismatch) ∧
    (∀ pc f, s.m = .token pc f → f.reason ≠ .tlbSlotMismatch) ∧ ∀ pc va, s.halt ≠ .halted .tlbSlotMismatch pc va

/-! ## Memory as loads observe it (R12, R319) -/

/-- The byte at a physical address as the data side sees it: the data cache's if a line holds it, else the backing
store's. -/
def State.viewByte (s : State) (pa : PAddr) : Option Byte :=
  match hitWay (s.dcache.ways (s.dIndex pa)) (s.dTag pa) with
  | some way => (s.dLine pa way).data.getD (lineOffset Config.dline pa) none
  | none => s.pmem.read pa.toNat

/-- The bytes at `pa, pa + 1, …` as the data side sees them. -/
def State.viewBytes (s : State) (pa : PAddr) : Nat → List (Option Byte)
  | 0 => []
  | n + 1 => s.viewByte pa :: State.viewBytes s (pa + 1#32) n

/-- The value of the `n` bytes at `pa` as the data side sees them, little-endian (R66); a byte that holds no value is the
free value of assumption 5. -/
def State.viewValue (s : State) (pa : PAddr) (n : Nat) : Nat := leValue (resolveBytes pa.toNat (s.viewBytes pa n))

/-- Is a byte one of the `n` bytes at `pa`? -/
def inAccess (pa : PAddr) (n : Nat) (a : PAddr) : Bool := decide (pa.toNat ≤ a.toNat) && decide (a.toNat < pa.toNat + n)

/-- The byte a store of `value` at `pa` puts at address `a` (R66, R263). -/
def storedByteAt (pa : PAddr) (value : Word) (a : PAddr) : Byte :=
  value.extractLsb' (8 * (a.toNat - pa.toNat)) 8

/-- The physical address a translation gives. -/
def TransResult.address (r : TransResult) : Option PAddr :=
  match r with
  | .hit pa => some pa
  | .done _ pa => some pa
  | .retry _ _ _ => none
  | .pageFault _ => none
  | .slotMismatch _ => none
  | .stop _ => none

/-- The physical address of the access in `M`, as the memory stage has it in this cycle: from the status, or from the
translation it makes (R100). -/
def State.dataAddress (s : State) : Option PAddr :=
  match s.m.access with
  | none => none
  | some (va, _) =>
    match s.ms with
    | .idle => (translate .data s.pmem false none va s).address
    | .dTlb step issued => (translate .data s.pmem false (some (step, issued)) va s).address
    | .dDeferred pa => some pa
    | .dEvict pa _ _ _ => some pa
    | .dFill pa _ _ => some pa
    | .dWriteThrough pa _ => some pa

/-- The memory stage completes the descriptor in `M` in this cycle (R384). -/
def State.completesM (s : State) : Prop := s.running = true ∧ ∃ t mout spent, memoryStage s.writeback = .out t mout spent

/-- A store of `size` bytes of `value` is performed at `pa` in this cycle (R275). -/
def State.storesAt (s : State) (pa : PAddr) (size : AccessSize) (value : Word) : Prop :=
  s.completesM ∧ s.writeback.dataAddress = some pa ∧ ∃ pc va, s.m = .store pc va size value

/-- A load of `size` bytes to `rd` is performed at `pa` in this cycle (R275). -/
def State.loadsAt (s : State) (pa : PAddr) (rd : Option Reg) (size : AccessSize) (signed : Bool) : Prop :=
  s.completesM ∧ s.writeback.dataAddress = some pa ∧ ∃ pc va, s.m = .load pc rd va size signed

/-- The state after `n` cycles, none when the machine stopped before. -/
def State.after (s : State) : Nat → Option State
  | 0 => some s
  | n + 1 =>
    match State.after s n with
    | none => none
    | some t =>
      match step t with
      | .next u => some u
      | .fault _ => none
      | .refused _ => none

/-! ## The accesses of a cycle (R100, R108, R338) -/

/-- `s` with its next call answered: the answers left, one call more made (R62). -/
def State.answered (s : State) (rest : List Bool) : State := { s with latency := rest, calls := s.calls + 1 }

/-- The TLB of a side holds the superpage of `va`, and gives `pa` (R82). -/
def State.tlbGives (s : State) (side : Side) (va : Word) (pa : PAddr) : Prop :=
  (s.tlb side).slots[(va.extractLsb' 14 3).toNat].valid = true ∧
    (s.tlb side).slots[(va.extractLsb' 14 3).toNat].tag = va.extractLsb' 14 18 ∧
    pa = (s.tlb side).slots[(va.extractLsb' 14 3).toNat].ppn ++ va.extractLsb' 0 14

/-- The walk a data-side translation of this cycle begins or goes on with (R90, R108). -/
def State.dataWalk (s : State) (walk : Option (WalkStep × Bool)) : Prop :=
  (s.ms = .idle ∧ walk = none) ∨ ∃ step issued, s.ms = .dTlb step issued ∧ walk = some (step, issued)

/-- The access at `va` reaches the data cache at `pa` in this cycle, in state `u` (R100 step 3): with the call free, from
`DDeferred` or by a D-TLB hit, or with the call spent, when its walk finishes. -/
def State.reachesCache (s : State) (va : Word) (u : State) (pa : PAddr) (spent : Bool) : Prop :=
  (u = s ∧ spent = false ∧
      (s.ms = .dDeferred pa ∨ ((s.ms = .idle ∨ ∃ step issued, s.ms = .dTlb step issued) ∧ s.tlbGives .data va pa))) ∨
    (spent = true ∧ ∃ walk, s.dataWalk walk ∧ translate .data s.pmem false walk va s = .done u pa)

/-- No way of the data cache holds the line (R97). -/
def State.dMisses (s : State) (pa : PAddr) : Prop := hitWay (s.dcache.ways (s.dIndex pa)) (s.dTag pa) = none

/-- A victim in this way is valid and dirty: it is written back first (R99). -/
def State.mustEvict (s : State) (pa : PAddr) (way : Nat) : Bool :=
  s.writeBack && (s.dLine pa way).valid && (s.dLine pa way).dirty

/-- A miss at `pa` begins in this cycle with its call free; its victim is `way`, chosen in `t` (R97, R98). -/
def State.choosesVictim (s : State) (va : Word) (pa : PAddr) (way : Nat) (t : State) : Prop :=
  s.reachesCache va s pa false ∧ s.dMisses pa ∧
    pickVictim s (victimCandidates s.writeBack (s.dcache.ways (s.dIndex pa))) = (way, t)

/-- In this cycle the miss at `pa` writes its victim back to `victimPa`, beginning in `t` or going on (R99, R108). -/
def State.writesBack (s : State) (va : Word) (pa : PAddr) (way : Nat) (victimPa : PAddr) (t : State) : Prop :=
  (s.choosesVictim va pa way t ∧ s.mustEvict pa way = true ∧
      victimPa = BitVec.ofNat 32 ((s.dLine pa way).address 8 s.params.dcacheRows (s.dIndex pa))) ∨
    (t = s ∧ s.dMisses pa ∧ ∃ issued, s.ms = .dEvict pa way victimPa issued)

/-- In this cycle the miss at `pa` fills its victim way, beginning in `t` or going on (R101, R108). -/
def State.fillsWay (s : State) (va : Word) (pa : PAddr) (way : Nat) (t : State) : Prop :=
  (s.choosesVictim va pa way t ∧ s.mustEvict pa way = false) ∨
    (t = s ∧ s.dMisses pa ∧ ∃ issued, s.ms = .dFill pa way issued)

/-- In this cycle the fill of the miss at `pa` completes: in `u` the call is answered and the victim way holds the backing
store's line, clean (R101). An 8-byte store fills nothing (R105). -/
def State.fillCompletes (s : State) (va : Word) (pa : PAddr) (way : Nat) (u : State) : Prop :=
  ∃ t rest, s.fillsWay va pa way t ∧ (∀ pc value, s.m ≠ .store pc va .b8 value) ∧
    pa.toNat / 8 * 8 + 8 ≤ s.params.pmemSize ∧ s.latency = true :: rest ∧
    u =
      { t.answered rest with
        dcache :=
          s.dcache.setLine (s.dIndex pa) way
            { valid := true, tag := s.dTag pa, data := s.pmem.readBytes (pa.toNat / 8 * 8) 8, dirty := false } }

/-- The walk a fetch's translation of this cycle begins or goes on with (R90, R338). -/
def State.fetchWalk (s : State) (walk : Option (WalkStep × Bool)) : Prop :=
  (s.fs = .fresh ∧ walk = none) ∨ ∃ step issued, s.fs = .iTlb step issued ∧ walk = some (step, issued)

/-- A fetch reaches the instruction cache at `pa` without a walk and with no fill begun: from `IDeferred` or by an I-TLB hit
(R338, R342). -/
def State.fetchReaches (s : State) (pa : PAddr) : Prop :=
  s.fs = .iDeferred pa ∨ ((s.fs = .fresh ∨ ∃ step issued, s.fs = .iTlb step issued) ∧ s.tlbGives .instr s.pc pa)

/-! ## The page table as the walk reads it (R83 to R87) -/

/-- The page-table entry at a physical address of the backing store. -/
def State.entryAt (s : State) (a : PAddr) : Word32 := pteOf a.toNat (s.pmem.readBytes a.toNat 4)

/-- The first-level entry of a superpage. -/
def State.pte1 (s : State) (sp : BitVec 18) : Word32 := s.entryAt (level1Address s.ptbr sp)

/-- The physical superpage number the two-level table gives a superpage, or none where an entry is not valid. -/
def State.walkTable (s : State) (sp : BitVec 18) : Option (BitVec 18) :=
  if pteValid (s.pte1 sp) then
    let e := s.entryAt (level2Address (s.pte1 sp) sp)
    if pteValid e then some (pteNumber e) else none
  else none

/-- No entry the walk of a superpage reads has been stored to: the program meets R72 for it. -/
def State.tableClean (s : State) (sp : BitVec 18) : Bool :=
  !storedTouches s.stored (level1Address s.ptbr sp).toNat 4
    && !storedTouches s.stored (level2Address (s.pte1 sp) sp).toNat 4

/-- The physical address the page table gives a virtual one (R87). -/
def State.tableAddress (s : State) (va : Word) : Option PAddr :=
  (s.walkTable (superpage va)).map fun ppn => ppn ++ superpageOffset va

/-- A TLB agrees with the page table: a valid slot sits at its superpage's own index and holds its number (R81, R87,
R88). -/
def State.tlbAgrees (s : State) (t : Tlb) : Prop :=
  ∀ i : BitVec 3, t.slots[i.toNat].valid = true →
    spSlot t.slots[i.toNat].tag = i ∧
      (s.tableClean t.slots[i.toNat].tag = true → s.walkTable t.slots[i.toNat].tag = some t.slots[i.toNat].ppn)

/-- `L2A` is the second-level address of the walk in progress (R85, R89). -/
def State.l2aAgrees (s : State) (t : Tlb) (va : Word) : Prop :=
  storedTouches s.stored (level1Address s.ptbr (superpage va)).toNat 4 = false →
    pteValid (s.pte1 (superpage va)) = true ∧ t.l2a = level2Address (s.pte1 (superpage va)) (superpage va)

/-- Both TLBs, the walks in progress and the translated addresses the status registers hold agree with the page table. -/
def TranslationInv (s : State) : Prop :=
  s.tlbAgrees s.itlb ∧ s.tlbAgrees s.dtlb ∧
    (∀ issued, s.fs = .iTlb .second issued → s.l2aAgrees s.itlb s.pc) ∧
    (∀ issued va size, s.ms = .dTlb .second issued → s.m.access = some (va, size) → s.l2aAgrees s.dtlb va) ∧
    (∀ pa, (s.fs = .iDeferred pa ∨ ∃ way issued, s.fs = .iFill pa way issued) →
      s.tableClean (superpage s.pc) = true → s.tableAddress s.pc = some pa) ∧
    ∀ pa va size, s.m.access = some (va, size) →
      (s.ms = .dDeferred pa ∨ (∃ way vpa issued, s.ms = .dEvict pa way vpa issued) ∨
        (∃ way issued, s.ms = .dFill pa way issued) ∨ ∃ issued, s.ms = .dWriteThrough pa issued) →
        s.tableClean (superpage va) = true → s.tableAddress va = some pa

/-- The instruction word at a physical address of the backing store (R66, R344). -/
def State.wordAt (s : State) (pa : PAddr) : Word32 :=
  BitVec.ofNat 32 (leValue (resolveBytes pa.toNat (s.pmem.readBytes pa.toNat 4)))

/-- A word is the one the page table and the backing store give the address, for a program that meets R72 there. -/
def State.fetchesWord (s : State) (pc : Word) (word : Word32) : Prop :=
  s.tableClean (superpage pc) = true →
    ∃ pa, s.tableAddress pc = some pa ∧ (storedTouches s.stored pa.toNat 4 = false → word = s.wordAt pa)

/-- The words in latches `D` and `X` are those of the program at their addresses. -/
def FetchedWordInv (s : State) : Prop :=
  (∀ pc word predPc, s.d = .instr pc word predPc → s.fetchesWord pc word) ∧
    ∀ v, s.x = .instr v → s.fetchesWord v.pc v.word

/-! ## The scalar view of the pipeline (R184, R361, R375, R393) -/

/-- The parameters under which `x0` reads as one value everywhere: `X0_FORWARD_QUIRK` set on a hard-wired `x0` is the
exception R360 describes. -/
def State.plainX0 (s : State) : Bool := !(s.params.x0Hardwired && s.params.x0ForwardQuirk)

/-- The value a retiring instruction sends to a register (R35, R356). -/
def WLatch.sends (w : WLatch) (r : Reg) : Option Word :=
  match w with
  | .retire _ (some q) v => if q = r then some v else none
  | .retire _ none _ => none
  | .bubble => none

/-- The value a register-write descriptor sends to a register (R34, R381). -/
def MLatch.sends (m : MLatch) (r : Reg) : Option Word :=
  match m with
  | .reg _ (some q) v => if q = r then some v else none
  | .reg _ none _ => none
  | .load _ _ _ _ _ => none
  | .store _ _ _ _ => none
  | .noEffect _ => none
  | .token _ _ => none
  | .bubble => none

/-- The value a register holds once a value sent to it, if any, is written: a write of a hard-wired `x0` has no effect
(R21). -/
def State.settle (s : State) (r : Reg) (sent : Option Word) (old : Word) : Word :=
  match sent with
  | some v => if s.params.x0Hardwired = true ∧ r = 0#5 then 0#64 else v
  | none => old

/-- The value of a register once latch `W` has retired. -/
def State.regAfterW (s : State) (r : Reg) : Word := s.settle r (s.w.sends r) (s.readReg r)

/-- The architectural value of a register for the instruction in `X`: once `W`, and a register-write result in `M`, have
retired. -/
def State.archReg (s : State) (r : Reg) : Word := s.settle r (s.m.sends r) (s.regAfterW r)

/-- The value of a register once `W` and the memory stage's output have retired. -/
def State.archRegAfter (s : State) (mout : WLatch) (r : Reg) : Word := s.settle r (mout.sends r) (s.regAfterW r)

/-- A load in `M` targets the register: its value is not known yet. -/
def MLatch.loadsTo (m : MLatch) (r : Reg) : Bool :=
  match m with
  | .load _ rd _ _ _ => rd == some r
  | .bubble => false
  | .reg _ _ _ => false
  | .store _ _ _ _ => false
  | .noEffect _ => false
  | .token _ _ => false

/-- A source operand in `X` is the register's architectural value, and no load in `M` is about to change it. -/
def State.sourceFresh (s : State) (src : Option Reg) (value : Word) : Bool :=
  match src with
  | none => value == 0#64
  | some r => value == s.archReg r && !s.m.loadsTo r

/-- The operands in latch `X` are the architectural values: none is stale (R361). -/
def State.operandsFresh (s : State) : Bool :=
  match s.x with
  | .instr v => s.sourceFresh (src1 v.op) v.a && s.sourceFresh (src2 v.op) v.b
  | .bubble => true
  | .token _ _ => true

/-- The address of what follows latch `X`: the instruction or token in `D`, else the next fetch. -/
def State.pcAfterX (s : State) : Word :=
  match s.d with
  | .instr pc _ _ => pc
  | .token pc _ => pc
  | .bubble => s.pc

/-- The address of the next instruction to execute: the oldest not yet executed. -/
def State.nextToExecute (s : State) : Word :=
  match s.x with
  | .instr v => v.pc
  | .token pc _ => pc
  | .bubble => s.pcAfterX

/-- Each latch holds what the one below it was predicted to be followed by (R345, R347, R372). -/
def State.chained (s : State) : Bool :=
  (match s.x with
    | .instr v => s.pcAfterX == v.predPc
    | .token pc _ => s.pcAfterX == pc
    | .bubble => true)
    && (match s.d with
      | .instr _ _ predPc => s.pc == predPc
      | .token pc _ => s.pc == pc
      | .bubble => true)
    && (match s.x, s.d with
      | .token _ _, .bubble => s.fs == .faulted
      | .token _ _, _ => false
      | _, .token _ _ => s.fs == .faulted
      | _, _ => true)

/-! ## The scalar interpreter (R184) -/

/-- The next PC of an instruction at `pc` with operand values `a` and `b`: `pc + 4`, or the target of a taken branch or a
jump (R231 to R238). -/
def scalarNextPc (i : Instr) (pc a b : Word) : Word :=
  match i with
  | .zero => pc + 4#64
  | .addi _ _ _ => pc + 4#64
  | .slti _ _ _ => pc + 4#64
  | .sltiu _ _ _ => pc + 4#64
  | .xori _ _ _ => pc + 4#64
  | .ori _ _ _ => pc + 4#64
  | .andi _ _ _ => pc + 4#64
  | .slli _ _ _ => pc + 4#64
  | .srli _ _ _ => pc + 4#64
  | .srai _ _ _ => pc + 4#64
  | .lui _ _ => pc + 4#64
  | .auipc _ _ => pc + 4#64
  | .add _ _ _ => pc + 4#64
  | .sub _ _ _ => pc + 4#64
  | .sll _ _ _ => pc + 4#64
  | .slt _ _ _ => pc + 4#64
  | .sltu _ _ _ => pc + 4#64
  | .xor _ _ _ => pc + 4#64
  | .srl _ _ _ => pc + 4#64
  | .sra _ _ _ => pc + 4#64
  | .or _ _ _ => pc + 4#64
  | .and _ _ _ => pc + 4#64
  | .addiw _ _ _ => pc + 4#64
  | .slliw _ _ _ => pc + 4#64
  | .srliw _ _ _ => pc + 4#64
  | .sraiw _ _ _ => pc + 4#64
  | .addw _ _ _ => pc + 4#64
  | .subw _ _ _ => pc + 4#64
  | .sllw _ _ _ => pc + 4#64
  | .srlw _ _ _ => pc + 4#64
  | .sraw _ _ _ => pc + 4#64
  | .mul _ _ _ => pc + 4#64
  | .mulh _ _ _ => pc + 4#64
  | .mulhsu _ _ _ => pc + 4#64
  | .mulhu _ _ _ => pc + 4#64
  | .mulw _ _ _ => pc + 4#64
  | .div _ _ _ => pc + 4#64
  | .divu _ _ _ => pc + 4#64
  | .rem _ _ _ => pc + 4#64
  | .remu _ _ _ => pc + 4#64
  | .divw _ _ _ => pc + 4#64
  | .divuw _ _ _ => pc + 4#64
  | .remw _ _ _ => pc + 4#64
  | .remuw _ _ _ => pc + 4#64
  | .beq _ _ offset => if a = b then pc + offset.signExtend 64 else pc + 4#64
  | .bne _ _ offset => if a ≠ b then pc + offset.signExtend 64 else pc + 4#64
  | .blt _ _ offset => if a.toInt < b.toInt then pc + offset.signExtend 64 else pc + 4#64
  | .bge _ _ offset => if b.toInt ≤ a.toInt then pc + offset.signExtend 64 else pc + 4#64
  | .bltu _ _ offset => if a.toNat < b.toNat then pc + offset.signExtend 64 else pc + 4#64
  | .bgeu _ _ offset => if b.toNat ≤ a.toNat then pc + offset.signExtend 64 else pc + 4#64
  | .jal _ offset => pc + offset.signExtend 64
  | .jalr _ _ imm => (a + imm.signExtend 64) &&& 0xFFFFFFFFFFFFFFFE#64
  | .lb _ _ _ => pc + 4#64
  | .lh _ _ _ => pc + 4#64
  | .lw _ _ _ => pc + 4#64
  | .ld _ _ _ => pc + 4#64
  | .lbu _ _ _ => pc + 4#64
  | .lhu _ _ _ => pc + 4#64
  | .lwu _ _ _ => pc + 4#64
  | .sb _ _ _ => pc + 4#64
  | .sh _ _ _ => pc + 4#64
  | .sw _ _ _ => pc + 4#64
  | .sd _ _ _ => pc + 4#64
  | .miscMem _ => pc + 4#64
  | .amo _ => pc + 4#64
  | .system _ => pc + 4#64
  | .illegal _ => pc + 4#64

/-- A signed 32-bit quotient or remainder, sign-extended; all ones under the sentinel condition (R201, R212, R214). -/
def scalarSigned32 (f : Int → Int → Int) (a b : Word32) : Word :=
  if b = 0#32 ∨ (a = min32 ∧ b = ones32) then ones64 else (BitVec.ofInt 32 (f a.toInt b.toInt)).signExtend 64

/-- An unsigned 32-bit quotient or remainder, sign-extended; all ones under the sentinel condition (R201, R213, R215). -/
def scalarUnsigned32 (p : Params) (f : Word32 → Word32 → Word32) (a b : Word32) : Word :=
  if b = 0#32 ∨ (p.divSentinelUnsigned = true ∧ a = min32 ∧ b = ones32) then ones64 else (f a b).signExtend 64

/-- The result an instruction at `pc` with operand values `a` and `b` writes to its destination, none for a load, whose value
memory gives, and for an instruction without one (R151 to R181, R203 to R215, R237, R238). -/
def scalarResult (p : Params) (i : Instr) (pc a b : Word) : Option Word :=
  match i with
  | .zero => none
  | .addi _ _ imm => some (a + imm.signExtend 64)
  | .slti _ _ imm => some (if a.toInt < (imm.signExtend 64).toInt then 1#64 else 0#64)
  | .sltiu _ _ imm => some (if a.toNat < (imm.signExtend 64).toNat then 1#64 else 0#64)
  | .xori _ _ imm => some (a ^^^ imm.signExtend 64)
  | .ori _ _ imm => some (a ||| imm.signExtend 64)
  | .andi _ _ imm => some (a &&& imm.signExtend 64)
  | .slli _ _ shamt => some (a <<< shamt)
  | .srli _ _ shamt => some (a >>> shamt)
  | .srai _ _ shamt => some (a.sshiftRight' shamt)
  | .lui _ imm20 => some ((imm20 ++ 0#12).signExtend 64)
  | .auipc _ imm20 => some (pc + (imm20 ++ 0#12).signExtend 64)
  | .add _ _ _ => some (a + b)
  | .sub _ _ _ => some (a - b)
  | .sll _ _ _ => some (a <<< (b.toNat % 64))
  | .slt _ _ _ => some (if a.toInt < b.toInt then 1#64 else 0#64)
  | .sltu _ _ _ => some (if a.toNat < b.toNat then 1#64 else 0#64)
  | .xor _ _ _ => some (a ^^^ b)
  | .srl _ _ _ => some (a >>> (b.toNat % 64))
  | .sra _ _ _ => some (a.sshiftRight (b.toNat % 64))
  | .or _ _ _ => some (a ||| b)
  | .and _ _ _ => some (a &&& b)
  | .addiw _ _ imm => some (((a + imm.signExtend 64).setWidth 32).signExtend 64)
  | .slliw _ _ shamt => some ((a.setWidth 32 <<< shamt).signExtend 64)
  | .srliw _ _ shamt => some ((a.setWidth 32 >>> shamt).signExtend 64)
  | .sraiw _ _ shamt => some (((a.setWidth 32).sshiftRight' shamt).signExtend 64)
  | .addw _ _ _ => some (((a + b).setWidth 32).signExtend 64)
  | .subw _ _ _ => some (((a - b).setWidth 32).signExtend 64)
  | .sllw _ _ _ => some ((a.setWidth 32 <<< (b.toNat % 32)).signExtend 64)
  | .srlw _ _ _ => some ((a.setWidth 32 >>> (b.toNat % 32)).signExtend 64)
  | .sraw _ _ _ => some (((a.setWidth 32).sshiftRight (b.toNat % 32)).signExtend 64)
  | .mul _ _ _ => some (a * b)
  | .mulh _ _ _ => some (BitVec.ofInt 64 (a.toInt * b.toInt / 2 ^ 64))
  | .mulhsu _ _ _ => some (BitVec.ofInt 64 (a.toInt * (b.toNat : Int) / 2 ^ 64))
  | .mulhu _ _ _ => some (BitVec.ofNat 64 (a.toNat * b.toNat / 2 ^ 64))
  | .mulw _ _ _ => some ((a.setWidth 32 * b.setWidth 32).signExtend 64)
  | .div _ _ _ =>
    some (if b = 0#64 ∨ (a = min64 ∧ b = ones64) then ones64 else BitVec.ofInt 64 (a.toInt.tdiv b.toInt))
  | .divu _ _ _ => some (if b = 0#64 ∨ (p.divSentinelUnsigned = true ∧ a = min64 ∧ b = ones64) then ones64 else a / b)
  | .rem _ _ _ =>
    some (if b = 0#64 ∨ (a = min64 ∧ b = ones64) then ones64 else BitVec.ofInt 64 (a.toInt.tmod b.toInt))
  | .remu _ _ _ => some (if b = 0#64 ∨ (p.divSentinelUnsigned = true ∧ a = min64 ∧ b = ones64) then ones64 else a % b)
  | .divw _ _ _ => some (scalarSigned32 Int.tdiv (a.setWidth 32) (b.setWidth 32))
  | .divuw _ _ _ => some (scalarUnsigned32 p (· / ·) (a.setWidth 32) (b.setWidth 32))
  | .remw _ _ _ => some (scalarSigned32 Int.tmod (a.setWidth 32) (b.setWidth 32))
  | .remuw _ _ _ => some (scalarUnsigned32 p (· % ·) (a.setWidth 32) (b.setWidth 32))
  | .beq _ _ _ => none
  | .bne _ _ _ => none
  | .blt _ _ _ => none
  | .bge _ _ _ => none
  | .bltu _ _ _ => none
  | .bgeu _ _ _ => none
  | .jal _ _ => some (pc + 4#64)
  | .jalr _ _ _ => some (pc + 4#64)
  | .lb _ _ _ => none
  | .lh _ _ _ => none
  | .lw _ _ _ => none
  | .ld _ _ _ => none
  | .lbu _ _ _ => none
  | .lhu _ _ _ => none
  | .lwu _ _ _ => none
  | .sb _ _ _ => none
  | .sh _ _ _ => none
  | .sw _ _ _ => none
  | .sd _ _ _ => none
  | .miscMem _ => none
  | .amo _ => none
  | .system _ => none
  | .illegal _ => none

/-- The operand values a scalar machine gives an instruction: its sources' values, 0 where it has none (R144, R145). -/
def scalarOperand (regs : Reg → Word) : Option Reg → Word
  | none => 0#64
  | some r => regs r

end Sys2Proof.Machine
end

