-- ==== Sys2Proof/Certificates/Slice0/Obligations.lean ====
section
/-! DEFINITION. The statements about the model for the provers, each one the formal reading of rules of spec/. Each holds for
every state, every parameter value of R11 and every answer of the oracles, unless its hypotheses say otherwise. -/

open Sys2Proof Sys2Proof.Machine

/-! ## Encoding (30_encoding.md) -/

/-- Decoding the word of a well-formed instruction gives it back, for every instruction and every operand value. -/
def Obligations.DecodeEncodeRoundTrip : Prop :=
  ∀ i : Instr, i.wf = true → decodeWord (encode i) = i

/-- Every word has one reading: the decoder gives a well-formed instruction whose word it is. -/
def Obligations.EncodeDecodeRoundTrip : Prop :=
  ∀ w : Word32, (decodeWord w).wf = true ∧ encode (decodeWord w) = w

/-- A word is illegal exactly when it is not the all-zero word and no row of the opcode table has it, and no word is in two
rows (R136, R140). -/
def Obligations.IllegalIffNoRow : Prop :=
  ∀ w : Word32,
    ((∃ word, decodeWord w = .illegal word) ↔ w ≠ 0#32 ∧ ∀ row ∈ opcodeRows, row.has w = false) ∧
      ∀ row ∈ opcodeRows, ∀ row' ∈ opcodeRows, row.has w = true → row'.has w = true → row = row'

/-- The decoder reads words of each format written out from the opcode table: a sanity statement. -/
def Obligations.SampleWordsDecode : Prop :=
  decodeWord 0b000000000101_00000_000_00001_0010011#32 = .addi 1#5 0#5 5#12 ∧
    decodeWord 0b0100000_00010_00001_000_00011_0110011#32 = .sub 3#5 1#5 2#5 ∧
    decodeWord 0b0000000_00011_00010_011_01000_0100011#32 = .sd 2#5 3#5 8#12 ∧
    decodeWord 0b1_111111_00010_00001_000_1100_1_1100011#32 = .beq 1#5 2#5 0x1FF8#13 ∧
    decodeWord 0b0_0000010000_0_00000000_00001_1101111#32 = .jal 1#5 0x20#21 ∧
    decodeWord 0b10000000000000000000_00101_0110111#32 = .lui 5#5 0x80000#20 ∧
    decodeWord 0b0000001_00010_00001_100_00011_0110011#32 = .div 3#5 1#5 2#5 ∧
    decodeWord 0b1_11111_00000000000000000000000000#32 = .illegal 0xFC000000#32 ∧
    decodeWord 0x0FF0000F#32 = .miscMem 0x1FE000#25

/-- An instruction is stored as the 4 bytes of its word, low-order byte first, and is read back from them whatever
follows; fewer than 4 bytes are rejected by name (R66, R120). -/
def Obligations.BytesRoundTrip : Prop :=
  (∀ (i : Instr) (rest : List Byte), i.wf = true → decodeBytes (encodeBytes i ++ rest) = .ok (i, rest)) ∧
    (∀ i : Instr, encodeBytes i =
      [(encode i).extractLsb' 0 8, (encode i).extractLsb' 8 8, (encode i).extractLsb' 16 8, (encode i).extractLsb' 24 8]) ∧
    ∀ bytes : List Byte, bytes.length < 4 → decodeBytes bytes = .error .shortWord

/-- The five immediates (R130 to R134): their bits, and the parity and range of the branch and jump offsets. -/
def Obligations.ImmediateFields : Prop :=
  ∀ w : Word32,
    sext12 (fieldImmI w) = (w.extractLsb' 20 12).signExtend 64 ∧
      sext12 (fieldImmS w) = (w.extractLsb' 25 7 ++ w.extractLsb' 7 5).signExtend 64 ∧
      sext13 (fieldImmB w)
        = (w.extractLsb' 31 1 ++ w.extractLsb' 7 1 ++ w.extractLsb' 25 6 ++ w.extractLsb' 8 4 ++ 0#1).signExtend 64 ∧
      ((sext13 (fieldImmB w)).toInt % 2 = 0 ∧ -4096 ≤ (sext13 (fieldImmB w)).toInt
        ∧ (sext13 (fieldImmB w)).toInt ≤ 4094) ∧
      immU (fieldImmU w) = (w &&& 0xFFFFF000#32).signExtend 64 ∧
      ((immU (fieldImmU w)).extractLsb' 0 12 = 0#12
        ∧ (immU (fieldImmU w)).extractLsb' 32 32 = if w.getLsbD 31 then 0xFFFFFFFF#32 else 0#32) ∧
      sext21 (fieldImmJ w)
        = (w.extractLsb' 31 1 ++ w.extractLsb' 12 8 ++ w.extractLsb' 20 1 ++ w.extractLsb' 21 10 ++ 0#1).signExtend 64 ∧
      ((sext21 (fieldImmJ w)).toInt % 2 = 0 ∧ -1048576 ≤ (sext21 (fieldImmJ w)).toInt
        ∧ (sext21 (fieldImmJ w)).toInt ≤ 1048574)

/-- The registers an instruction names are the fields `w[11:7]`, `w[19:15]` and `w[24:20]` of its word, and the major
opcode decides which of them it has (R121, R143, R144); the no-op operations and illegal words have none. -/
def Obligations.RegisterFields : Prop :=
  ∀ w : Word32,
    (∀ r, dest (decodeWord w) = some r → r = w.extractLsb' 7 5) ∧
      (∀ r, src1 (decodeWord w) = some r → r = w.extractLsb' 15 5) ∧
      (∀ r, src2 (decodeWord w) = some r → r = w.extractLsb' 20 5) ∧
      ((w = 0#32 ∨ decodeWord w = .illegal w) →
        dest (decodeWord w) = none ∧ src1 (decodeWord w) = none ∧ src2 (decodeWord w) = none) ∧
      (decodeWord w ≠ .illegal w → w ≠ 0#32 →
        ((dest (decodeWord w) = none ↔ w.extractLsb' 0 7 ∈ [0x23#7, 0x63#7, 0x0F#7, 0x2F#7, 0x73#7]) ∧
          (src1 (decodeWord w) = none ↔ w.extractLsb' 0 7 ∈ [0x17#7, 0x37#7, 0x6F#7, 0x0F#7, 0x2F#7, 0x73#7]) ∧
          (src2 (decodeWord w) ≠ none ↔ w.extractLsb' 0 7 ∈ [0x23#7, 0x33#7, 0x3B#7, 0x63#7])))

/-! ## Integer instructions (40_integer.md) -/

/-- OP-IMM, `LUI` and `AUIPC` (R151 to R161): each instruction in latch `X` completes with its result in latch `M`, and its
word is the one the table gives. -/
def Obligations.ImmediateResults : Prop :=
  ∀ (s : State) (v : XInstr) (rd rs1 : Reg) (imm : BitVec 12) (shamt : BitVec 6) (imm20 : BitVec 20), s.x = .instr v →
    (exec (.addi rd rs1 imm) s = s.withResult v rd (v.a + imm.signExtend 64)
        ∧ decodeWord (imm ++ rs1 ++ 0b000#3 ++ rd ++ 0x13#7) = .addi rd rs1 imm) ∧
      (exec (.slti rd rs1 imm) s = s.withResult v rd (if v.a.toInt < (imm.signExtend 64).toInt then 1#64 else 0#64)
        ∧ decodeWord (imm ++ rs1 ++ 0b010#3 ++ rd ++ 0x13#7) = .slti rd rs1 imm) ∧
      (exec (.sltiu rd rs1 imm) s = s.withResult v rd (if v.a.toNat < (imm.signExtend 64).toNat then 1#64 else 0#64)
        ∧ decodeWord (imm ++ rs1 ++ 0b011#3 ++ rd ++ 0x13#7) = .sltiu rd rs1 imm) ∧
      (exec (.xori rd rs1 imm) s = s.withResult v rd (v.a ^^^ imm.signExtend 64)
        ∧ decodeWord (imm ++ rs1 ++ 0b100#3 ++ rd ++ 0x13#7) = .xori rd rs1 imm) ∧
      (exec (.ori rd rs1 imm) s = s.withResult v rd (v.a ||| imm.signExtend 64)
        ∧ decodeWord (imm ++ rs1 ++ 0b110#3 ++ rd ++ 0x13#7) = .ori rd rs1 imm) ∧
      (exec (.andi rd rs1 imm) s = s.withResult v rd (v.a &&& imm.signExtend 64)
        ∧ decodeWord (imm ++ rs1 ++ 0b111#3 ++ rd ++ 0x13#7) = .andi rd rs1 imm) ∧
      (exec (.slli rd rs1 shamt) s = s.withResult v rd (v.a <<< shamt.toNat)
        ∧ decodeWord (0b000000#6 ++ shamt ++ rs1 ++ 0b001#3 ++ rd ++ 0x13#7) = .slli rd rs1 shamt) ∧
      (exec (.srli rd rs1 shamt) s = s.withResult v rd (v.a >>> shamt.toNat)
        ∧ decodeWord (0b000000#6 ++ shamt ++ rs1 ++ 0b101#3 ++ rd ++ 0x13#7) = .srli rd rs1 shamt) ∧
      (exec (.srai rd rs1 shamt) s = s.withResult v rd (v.a.sshiftRight shamt.toNat)
        ∧ decodeWord (0b010000#6 ++ shamt ++ rs1 ++ 0b101#3 ++ rd ++ 0x13#7) = .srai rd rs1 shamt) ∧
      (exec (.lui rd imm20) s = s.withResult v rd ((imm20 ++ 0#12).signExtend 64)
        ∧ decodeWord (imm20 ++ rd ++ 0x37#7) = .lui rd imm20 ∧ src1 (.lui rd imm20) = none
        ∧ src2 (.lui rd imm20) = none) ∧
      (exec (.auipc rd imm20) s = s.withResult v rd (v.pc + (imm20 ++ 0#12).signExtend 64)
        ∧ decodeWord (imm20 ++ rd ++ 0x17#7) = .auipc rd imm20 ∧ src1 (.auipc rd imm20) = none
        ∧ src2 (.auipc rd imm20) = none)

/-- OP (R162 to R171). -/
def Obligations.OpResults : Prop :=
  ∀ (s : State) (v : XInstr) (rd rs1 rs2 : Reg), s.x = .instr v →
    (exec (.add rd rs1 rs2) s = s.withResult v rd (v.a + v.b)
        ∧ decodeWord (0b0000000#7 ++ rs2 ++ rs1 ++ 0b000#3 ++ rd ++ 0x33#7) = .add rd rs1 rs2) ∧
      (exec (.sub rd rs1 rs2) s = s.withResult v rd (v.a - v.b)
        ∧ decodeWord (0b0100000#7 ++ rs2 ++ rs1 ++ 0b000#3 ++ rd ++ 0x33#7) = .sub rd rs1 rs2) ∧
      (exec (.sll rd rs1 rs2) s = s.withResult v rd (v.a <<< (v.b.extractLsb' 0 6).toNat)
        ∧ decodeWord (0b0000000#7 ++ rs2 ++ rs1 ++ 0b001#3 ++ rd ++ 0x33#7) = .sll rd rs1 rs2) ∧
      (exec (.slt rd rs1 rs2) s = s.withResult v rd (if v.a.toInt < v.b.toInt then 1#64 else 0#64)
        ∧ decodeWord (0b0000000#7 ++ rs2 ++ rs1 ++ 0b010#3 ++ rd ++ 0x33#7) = .slt rd rs1 rs2) ∧
      (exec (.sltu rd rs1 rs2) s = s.withResult v rd (if v.a.toNat < v.b.toNat then 1#64 else 0#64)
        ∧ decodeWord (0b0000000#7 ++ rs2 ++ rs1 ++ 0b011#3 ++ rd ++ 0x33#7) = .sltu rd rs1 rs2) ∧
      (exec (.xor rd rs1 rs2) s = s.withResult v rd (v.a ^^^ v.b)
        ∧ decodeWord (0b0000000#7 ++ rs2 ++ rs1 ++ 0b100#3 ++ rd ++ 0x33#7) = .xor rd rs1 rs2) ∧
      (exec (.srl rd rs1 rs2) s = s.withResult v rd (v.a >>> (v.b.extractLsb' 0 6).toNat)
        ∧ decodeWord (0b0000000#7 ++ rs2 ++ rs1 ++ 0b101#3 ++ rd ++ 0x33#7) = .srl rd rs1 rs2) ∧
      (exec (.sra rd rs1 rs2) s = s.withResult v rd (v.a.sshiftRight (v.b.extractLsb' 0 6).toNat)
        ∧ decodeWord (0b0100000#7 ++ rs2 ++ rs1 ++ 0b101#3 ++ rd ++ 0x33#7) = .sra rd rs1 rs2) ∧
      (exec (.or rd rs1 rs2) s = s.withResult v rd (v.a ||| v.b)
        ∧ decodeWord (0b0000000#7 ++ rs2 ++ rs1 ++ 0b110#3 ++ rd ++ 0x33#7) = .or rd rs1 rs2) ∧
      (exec (.and rd rs1 rs2) s = s.withResult v rd (v.a &&& v.b)
        ∧ decodeWord (0b0000000#7 ++ rs2 ++ rs1 ++ 0b111#3 ++ rd ++ 0x33#7) = .and rd rs1 rs2)

/-- The W forms (R173 to R181). -/
def Obligations.WordFormResults : Prop :=
  ∀ (s : State) (v : XInstr) (rd rs1 rs2 : Reg) (imm : BitVec 12) (shamt : BitVec 5), s.x = .instr v →
    (exec (.addiw rd rs1 imm) s = s.withResult v rd (((v.a + imm.signExtend 64).setWidth 32).signExtend 64)
        ∧ decodeWord (imm ++ rs1 ++ 0b000#3 ++ rd ++ 0x1B#7) = .addiw rd rs1 imm) ∧
      (exec (.slliw rd rs1 shamt) s = s.withResult v rd ((v.a.setWidth 32 <<< shamt.toNat).signExtend 64)
        ∧ decodeWord (0b0000000#7 ++ shamt ++ rs1 ++ 0b001#3 ++ rd ++ 0x1B#7) = .slliw rd rs1 shamt
        ∧ ∀ w : Word32, w.extractLsb' 0 7 = 0x1B#7 → w.extractLsb' 12 3 = 0b001#3 → w.getLsbD 25 = true →
          decodeWord w = .illegal w) ∧
      (exec (.srliw rd rs1 shamt) s = s.withResult v rd ((v.a.setWidth 32 >>> shamt.toNat).signExtend 64)
        ∧ decodeWord (0b0000000#7 ++ shamt ++ rs1 ++ 0b101#3 ++ rd ++ 0x1B#7) = .srliw rd rs1 shamt) ∧
      (exec (.sraiw rd rs1 shamt) s = s.withResult v rd (((v.a.setWidth 32).sshiftRight shamt.toNat).signExtend 64)
        ∧ decodeWord (0b0100000#7 ++ shamt ++ rs1 ++ 0b101#3 ++ rd ++ 0x1B#7) = .sraiw rd rs1 shamt) ∧
      (exec (.addw rd rs1 rs2) s = s.withResult v rd (((v.a + v.b).setWidth 32).signExtend 64)
        ∧ decodeWord (0b0000000#7 ++ rs2 ++ rs1 ++ 0b000#3 ++ rd ++ 0x3B#7) = .addw rd rs1 rs2) ∧
      (exec (.subw rd rs1 rs2) s = s.withResult v rd (((v.a - v.b).setWidth 32).signExtend 64)
        ∧ decodeWord (0b0100000#7 ++ rs2 ++ rs1 ++ 0b000#3 ++ rd ++ 0x3B#7) = .subw rd rs1 rs2) ∧
      (exec (.sllw rd rs1 rs2) s = s.withResult v rd ((v.a.setWidth 32 <<< (v.b.extractLsb' 0 5).toNat).signExtend 64)
        ∧ decodeWord (0b0000000#7 ++ rs2 ++ rs1 ++ 0b001#3 ++ rd ++ 0x3B#7) = .sllw rd rs1 rs2) ∧
      (exec (.srlw rd rs1 rs2) s = s.withResult v rd ((v.a.setWidth 32 >>> (v.b.extractLsb' 0 5).toNat).signExtend 64)
        ∧ decodeWord (0b0000000#7 ++ rs2 ++ rs1 ++ 0b101#3 ++ rd ++ 0x3B#7) = .srlw rd rs1 rs2) ∧
      (exec (.sraw rd rs1 rs2) s
          = s.withResult v rd (((v.a.setWidth 32).sshiftRight (v.b.extractLsb' 0 5).toNat).signExtend 64)
        ∧ decodeWord (0b0100000#7 ++ rs2 ++ rs1 ++ 0b101#3 ++ rd ++ 0x3B#7) = .sraw rd rs1 rs2)

/-! ## Multiply and divide (41_muldiv.md) -/

/-- The multiplies (R203 to R207). -/
def Obligations.MultiplyResults : Prop :=
  ∀ (s : State) (v : XInstr) (rd rs1 rs2 : Reg), s.x = .instr v →
    (exec (.mul rd rs1 rs2) s = s.withResult v rd (v.a * v.b)
        ∧ decodeWord (0b0000001#7 ++ rs2 ++ rs1 ++ 0b000#3 ++ rd ++ 0x33#7) = .mul rd rs1 rs2) ∧
      (exec (.mulh rd rs1 rs2) s
          = s.withResult v rd ((BitVec.ofInt 128 (v.a.toInt * v.b.toInt)).extractLsb' 64 64)
        ∧ decodeWord (0b0000001#7 ++ rs2 ++ rs1 ++ 0b001#3 ++ rd ++ 0x33#7) = .mulh rd rs1 rs2) ∧
      (exec (.mulhsu rd rs1 rs2) s
          = s.withResult v rd ((BitVec.ofInt 128 (v.a.toInt * (v.b.toNat : Int))).extractLsb' 64 64)
        ∧ decodeWord (0b0000001#7 ++ rs2 ++ rs1 ++ 0b010#3 ++ rd ++ 0x33#7) = .mulhsu rd rs1 rs2) ∧
      (exec (.mulhu rd rs1 rs2) s
          = s.withResult v rd ((BitVec.ofNat 128 (v.a.toNat * v.b.toNat)).extractLsb' 64 64)
        ∧ decodeWord (0b0000001#7 ++ rs2 ++ rs1 ++ 0b011#3 ++ rd ++ 0x33#7) = .mulhu rd rs1 rs2) ∧
      (exec (.mulw rd rs1 rs2) s = s.withResult v rd ((v.a.setWidth 32 * v.b.setWidth 32).signExtend 64)
        ∧ decodeWord (0b0000001#7 ++ rs2 ++ rs1 ++ 0b000#3 ++ rd ++ 0x3B#7) = .mulw rd rs1 rs2)

/-- The divides and remainders (R208 to R215), sentinel cases included. -/
def Obligations.DivideResults : Prop :=
  ∀ (s : State) (v : XInstr) (rd rs1 rs2 : Reg), s.x = .instr v →
    let a := v.a
    let b := v.b
    let a32 := a.setWidth 32
    let b32 := b.setWidth 32
    let S64 := b = 0#64 ∨ (a = min64 ∧ b = ones64)
    let U64 := b = 0#64 ∨ (s.params.divSentinelUnsigned = true ∧ a = min64 ∧ b = ones64)
    let S32 := b32 = 0#32 ∨ (a32 = min32 ∧ b32 = ones32)
    let U32 := b32 = 0#32 ∨ (s.params.divSentinelUnsigned = true ∧ a32 = min32 ∧ b32 = ones32)
    (exec (.div rd rs1 rs2) s
          = s.withResult v rd (if S64 then ones64 else BitVec.ofInt 64 (a.toInt.tdiv b.toInt))
        ∧ decodeWord (0b0000001#7 ++ rs2 ++ rs1 ++ 0b100#3 ++ rd ++ 0x33#7) = .div rd rs1 rs2) ∧
      (exec (.divu rd rs1 rs2) s
          = s.withResult v rd (if U64 then ones64 else BitVec.ofNat 64 (a.toNat / b.toNat))
        ∧ decodeWord (0b0000001#7 ++ rs2 ++ rs1 ++ 0b101#3 ++ rd ++ 0x33#7) = .divu rd rs1 rs2) ∧
      (exec (.rem rd rs1 rs2) s
          = s.withResult v rd
            (if S64 then ones64 else BitVec.ofInt 64 (a.toInt - b.toInt * a.toInt.tdiv b.toInt))
        ∧ decodeWord (0b0000001#7 ++ rs2 ++ rs1 ++ 0b110#3 ++ rd ++ 0x33#7) = .rem rd rs1 rs2) ∧
      (exec (.remu rd rs1 rs2) s
          = s.withResult v rd (if U64 then ones64 else BitVec.ofNat 64 (a.toNat % b.toNat))
        ∧ decodeWord (0b0000001#7 ++ rs2 ++ rs1 ++ 0b111#3 ++ rd ++ 0x33#7) = .remu rd rs1 rs2) ∧
      (exec (.divw rd rs1 rs2) s
          = s.withResult v rd
            (if S32 then ones64 else (BitVec.ofInt 32 (a32.toInt.tdiv b32.toInt)).signExtend 64)
        ∧ decodeWord (0b0000001#7 ++ rs2 ++ rs1 ++ 0b100#3 ++ rd ++ 0x3B#7) = .divw rd rs1 rs2) ∧
      (exec (.divuw rd rs1 rs2) s
          = s.withResult v rd
            (if U32 then ones64 else (BitVec.ofNat 32 (a32.toNat / b32.toNat)).signExtend 64)
        ∧ decodeWord (0b0000001#7 ++ rs2 ++ rs1 ++ 0b101#3 ++ rd ++ 0x3B#7) = .divuw rd rs1 rs2) ∧
      (exec (.remw rd rs1 rs2) s
          = s.withResult v rd
            (if S32 then ones64
              else (BitVec.ofInt 32 (a32.toInt - b32.toInt * a32.toInt.tdiv b32.toInt)).signExtend 64)
        ∧ decodeWord (0b0000001#7 ++ rs2 ++ rs1 ++ 0b110#3 ++ rd ++ 0x3B#7) = .remw rd rs1 rs2) ∧
      (exec (.remuw rd rs1 rs2) s
          = s.withResult v rd
            (if U32 then ones64 else (BitVec.ofNat 32 (a32.toNat % b32.toNat)).signExtend 64)
        ∧ decodeWord (0b0000001#7 ++ rs2 ++ rs1 ++ 0b111#3 ++ rd ++ 0x3B#7) = .remuw rd rs1 rs2)

/-- The sentinel law (R202), and the division laws outside the sentinel condition (R216): dividend, quotient and remainder
are related as `a = b * q + r`, with the remainder smaller than the divisor and of the dividend's sign. -/
def Obligations.DivisionLaws : Prop :=
  ∀ (s : State) (v : XInstr) (rd rs1 rs2 : Reg), s.x = .instr v →
    let a := v.a
    let b := v.b
    let a32 := a.setWidth 32
    let b32 := b.setWidth 32
    let signedLaw := fun (a b q r : Int) =>
      a = b * q + r ∧ r.natAbs < b.natAbs ∧ (r = 0 ∨ (0 < r ∧ 0 < a) ∨ (r < 0 ∧ a < 0))
    let unsignedLaw := fun (a b q r : Nat) => a = b * q + r ∧ r < b
    let writes := fun (i : Instr) (value : Word) =>
      ∃ t, exec i s = .next t ∧ t.m = .reg v.pc (some rd) value
    (∃ q r, writes (.div rd rs1 rs2) q ∧ writes (.rem rd rs1 rs2) r ∧
        (if b = 0#64 ∨ (a = min64 ∧ b = ones64) then q = ones64 ∧ r = ones64
          else signedLaw a.toInt b.toInt q.toInt r.toInt)) ∧
      (∃ q r, writes (.divu rd rs1 rs2) q ∧ writes (.remu rd rs1 rs2) r ∧
        (if b = 0#64 ∨ (s.params.divSentinelUnsigned = true ∧ a = min64 ∧ b = ones64) then q = ones64 ∧ r = ones64
          else unsignedLaw a.toNat b.toNat q.toNat r.toNat)) ∧
      (∃ q r, writes (.divw rd rs1 rs2) q ∧ writes (.remw rd rs1 rs2) r ∧
        (if b32 = 0#32 ∨ (a32 = min32 ∧ b32 = ones32) then q = ones64 ∧ r = ones64
          else ∃ q32 r32 : Word32, q = q32.signExtend 64 ∧ r = r32.signExtend 64
            ∧ signedLaw a32.toInt b32.toInt q32.toInt r32.toInt)) ∧
      ∃ q r, writes (.divuw rd rs1 rs2) q ∧ writes (.remuw rd rs1 rs2) r ∧
        (if b32 = 0#32 ∨ (s.params.divSentinelUnsigned = true ∧ a32 = min32 ∧ b32 = ones32)
          then q = ones64 ∧ r = ones64
          else ∃ q32 r32 : Word32, q = q32.signExtend 64 ∧ r = r32.signExtend 64
            ∧ unsignedLaw a32.toNat b32.toNat q32.toNat r32.toNat)

/-- A high multiply and `MUL` together hold the exact 128-bit product (R203 to R206). -/
def Obligations.ProductHalves : Prop :=
  ∀ (s : State) (v : XInstr) (rd rs1 rs2 : Reg), s.x = .instr v →
    let writes := fun (i : Instr) (value : Word) =>
      ∃ t, exec i s = .next t ∧ t.m = .reg v.pc (some rd) value
    ∃ l h hsu hu, writes (.mul rd rs1 rs2) l ∧ writes (.mulh rd rs1 rs2) h ∧ writes (.mulhsu rd rs1 rs2) hsu
      ∧ writes (.mulhu rd rs1 rs2) hu
      ∧ v.a.toInt * v.b.toInt = h.toInt * 2 ^ 64 + (l.toNat : Int)
      ∧ v.a.toInt * (v.b.toNat : Int) = hsu.toInt * 2 ^ 64 + (l.toNat : Int)
      ∧ v.a.toNat * v.b.toNat = hu.toNat * 2 ^ 64 + l.toNat

/-! ## Control transfer and no-op classes (42_control.md, 44_misc.md) -/

/-- The conditional branches (R231 to R236): no register is written, the next PC is the target or `pc + 4`. -/
def Obligations.BranchResults : Prop :=
  ∀ (s : State) (v : XInstr) (rs1 rs2 : Reg) (offset : BitVec 13), s.x = .instr v →
    let target := v.pc + offset.signExtend 64
    let go := fun (nextPc : Word) => s.withTransfer v (.noEffect v.pc) nextPc target
    let word := fun (funct3 : BitVec 3) =>
      offset.extractLsb' 12 1 ++ offset.extractLsb' 5 6 ++ rs2 ++ rs1 ++ funct3 ++ offset.extractLsb' 1 4
        ++ offset.extractLsb' 11 1 ++ 0x63#7
    (exec (.beq rs1 rs2 offset) s = go (if v.a = v.b then target else v.pc + 4#64)
        ∧ (offset.getLsbD 0 = false → decodeWord (word 0b000#3) = .beq rs1 rs2 offset)) ∧
      (exec (.bne rs1 rs2 offset) s = go (if v.a ≠ v.b then target else v.pc + 4#64)
        ∧ (offset.getLsbD 0 = false → decodeWord (word 0b001#3) = .bne rs1 rs2 offset)) ∧
      (exec (.blt rs1 rs2 offset) s = go (if v.a.toInt < v.b.toInt then target else v.pc + 4#64)
        ∧ (offset.getLsbD 0 = false → decodeWord (word 0b100#3) = .blt rs1 rs2 offset)) ∧
      (exec (.bge rs1 rs2 offset) s = go (if v.b.toInt ≤ v.a.toInt then target else v.pc + 4#64)
        ∧ (offset.getLsbD 0 = false → decodeWord (word 0b101#3) = .bge rs1 rs2 offset)) ∧
      (exec (.bltu rs1 rs2 offset) s = go (if v.a.toNat < v.b.toNat then target else v.pc + 4#64)
        ∧ (offset.getLsbD 0 = false → decodeWord (word 0b110#3) = .bltu rs1 rs2 offset)) ∧
      (exec (.bgeu rs1 rs2 offset) s = go (if v.b.toNat ≤ v.a.toNat then target else v.pc + 4#64)
        ∧ (offset.getLsbD 0 = false → decodeWord (word 0b111#3) = .bgeu rs1 rs2 offset))

/-- The jumps (R237, R238): the link is written and the next PC is the target. -/
def Obligations.JumpResults : Prop :=
  ∀ (s : State) (v : XInstr) (rd rs1 : Reg) (offset : BitVec 21) (imm : BitVec 12), s.x = .instr v →
    let go := fun (nextPc : Word) => s.withTransfer v (.reg v.pc (some rd) (v.pc + 4#64)) nextPc nextPc
    (exec (.jal rd offset) s = go (v.pc + offset.signExtend 64)
        ∧ (offset.getLsbD 0 = false →
          decodeWord
              (offset.extractLsb' 20 1 ++ offset.extractLsb' 1 10 ++ offset.extractLsb' 11 1 ++ offset.extractLsb' 12 8
                ++ rd ++ 0x6F#7)
            = .jal rd offset)) ∧
      (exec (.jalr rd rs1 imm) s = go ((v.a + imm.signExtend 64) &&& ~~~1#64)
        ∧ decodeWord (imm ++ rs1 ++ 0b000#3 ++ rd ++ 0x67#7) = .jalr rd rs1 imm)

/-- The no-op classes and the all-zero word (R280 to R284): each runs, with no effect but its slot, whatever its fields. -/
def Obligations.NoOpClasses : Prop :=
  ∀ (s : State) (v : XInstr) (rest : BitVec 25), s.x = .instr v →
    let noOp := Host.Outcome.next (s.executed v (.noEffect v.pc) (v.pc + 4#64))
    (exec (.miscMem rest) s = noOp ∧ decodeWord (rest ++ 0x0F#7) = .miscMem rest) ∧
      (exec (.amo rest) s = noOp ∧ decodeWord (rest ++ 0x2F#7) = .amo rest) ∧
      (exec (.system rest) s = noOp ∧ decodeWord (rest ++ 0x73#7) = .system rest) ∧
      (exec .zero s = noOp ∧ decodeWord 0#32 = .zero)

/-- An illegal instruction appends its address and word to the log and is otherwise a no-op (R285). -/
def Obligations.IllegalInstruction : Prop :=
  ∀ (s : State) (v : XInstr) (word : Word32), s.x = .instr v →
    exec (.illegal word) s
        = .next (({ s with log := s.log ++ [(v.pc, v.word)] } : State).executed v (.noEffect v.pc) (v.pc + 4#64))
      ∧ dest (.illegal word) = none ∧ src1 (.illegal word) = none ∧ src2 (.illegal word) = none

/-! ## Loads and stores in execute (43_loadstore.md) -/

/-- Each load completes execute with its descriptor in latch `M`, at `va = a + imm` (R260, R262, R264 to R270). -/
def Obligations.LoadDescriptors : Prop :=
  ∀ (s : State) (v : XInstr) (rd rs1 : Reg) (imm : BitVec 12), s.x = .instr v →
    let load := fun (size : AccessSize) (signed : Bool) =>
      Host.Outcome.next (s.executed v (.load v.pc (some rd) (v.a + imm.signExtend 64) size signed) (v.pc + 4#64))
    let word := fun (funct3 : BitVec 3) => imm ++ rs1 ++ funct3 ++ rd ++ 0x03#7
    (exec (.lb rd rs1 imm) s = load .b1 true ∧ decodeWord (word 0b000#3) = .lb rd rs1 imm) ∧
      (exec (.lh rd rs1 imm) s = load .b2 true ∧ decodeWord (word 0b001#3) = .lh rd rs1 imm) ∧
      (exec (.lw rd rs1 imm) s = load .b4 true ∧ decodeWord (word 0b010#3) = .lw rd rs1 imm) ∧
      (exec (.ld rd rs1 imm) s = load .b8 true ∧ decodeWord (word 0b011#3) = .ld rd rs1 imm) ∧
      (exec (.lbu rd rs1 imm) s = load .b1 false ∧ decodeWord (word 0b100#3) = .lbu rd rs1 imm) ∧
      (exec (.lhu rd rs1 imm) s = load .b2 false ∧ decodeWord (word 0b101#3) = .lhu rd rs1 imm) ∧
      (exec (.lwu rd rs1 imm) s = load .b4 false ∧ decodeWord (word 0b110#3) = .lwu rd rs1 imm)

/-- Each store completes execute with its descriptor in latch `M`, at `va = a + imm`, with the value of `rs2`; nothing is
stored yet (R260, R263, R271 to R274). -/
def Obligations.StoreDescriptors : Prop :=
  ∀ (s : State) (v : XInstr) (rs1 rs2 : Reg) (imm : BitVec 12), s.x = .instr v →
    let store := fun (size : AccessSize) =>
      Host.Outcome.next (s.executed v (.store v.pc (v.a + imm.signExtend 64) size v.b) (v.pc + 4#64))
    let word := fun (funct3 : BitVec 3) =>
      imm.extractLsb' 5 7 ++ rs2 ++ rs1 ++ funct3 ++ imm.extractLsb' 0 5 ++ 0x23#7
    (exec (.sb rs1 rs2 imm) s = store .b1 ∧ decodeWord (word 0b000#3) = .sb rs1 rs2 imm) ∧
      (exec (.sh rs1 rs2 imm) s = store .b2 ∧ decodeWord (word 0b001#3) = .sh rs1 rs2 imm) ∧
      (exec (.sw rs1 rs2 imm) s = store .b4 ∧ decodeWord (word 0b010#3) = .sw rs1 rs2 imm) ∧
      (exec (.sd rs1 rs2 imm) s = store .b8 ∧ decodeWord (word 0b011#3) = .sd rs1 rs2 imm)

/-- The frame of every meaning: execution answers a next state, which differs only in latch `M`, in the PC, the fetch
status and latch `D` together (a redirect), in the predictor for a branch or a jump, and in the log for an illegal
instruction. No register and no memory, cache or translation state changes in execute. -/
def Obligations.ExecFrame : Prop :=
  ∀ (i : Instr) (s : State), ∃ t, exec i s = .next t ∧
    t.regs = s.regs ∧ t.x = s.x ∧ t.w = s.w ∧ t.ms = s.ms ∧ t.itlb = s.itlb ∧ t.dtlb = s.dtlb ∧ t.icache = s.icache ∧
      t.dcache = s.dcache ∧ t.halt = s.halt ∧ t.stored = s.stored ∧ t.pmem = s.pmem ∧ t.ptbr = s.ptbr ∧
      t.params = s.params ∧ t.latency = s.latency ∧ t.calls = s.calls ∧ t.victims = s.victims ∧ t.draws = s.draws ∧
      ((t.pc = s.pc ∧ t.fs = s.fs ∧ t.d = s.d) ∨ (t.fs = .fresh ∧ t.d = .bubble)) ∧
      (t.log = s.log ∨ ∃ word, i = .illegal word) ∧
      (t.bp = s.bp ∨
        (∃ rs1 rs2 offset, i = .beq rs1 rs2 offset ∨ i = .bne rs1 rs2 offset ∨ i = .blt rs1 rs2 offset
          ∨ i = .bge rs1 rs2 offset ∨ i = .bltu rs1 rs2 offset ∨ i = .bgeu rs1 rs2 offset) ∨
        (∃ rd offset, i = .jal rd offset) ∨ ∃ rd rs1 imm, i = .jalr rd rs1 imm)

/-! ## Decode stage (70_reset_and_hazards.md section 3) -/

/-- An instruction in `D` none of whose sources is the destination of the instruction in execute is decoded into `X`, each
source resolved from the memory stage's output, else from `W`, else from the register file (R356, R358); a hard-wired `x0`
reads 0 under the default parameters (R360). Nothing else changes. `X.imm` of an instruction without an immediate is left
open. -/
def Obligations.DecodeResolvesOperands : Prop :=
  ∀ (s : State) (oldX : XLatch) (mout : WLatch) (pc : Word) (word : Word32) (predPc : Word),
    s.d = .instr pc word predPc →
      (∀ u r, oldX = .instr u → u.rd = some r → src1 (decodeWord word) ≠ some r ∧ src2 (decodeWord word) ≠ some r) →
        let value := fun (r : Reg) =>
          if s.params.x0Hardwired = true ∧ s.params.x0ForwardQuirk = false ∧ r = 0#5 then 0#64
          else ((mout.sends r).or (s.w.sends r)).getD
            (if s.params.x0Hardwired = true ∧ r = 0#5 then 0#64 else s.regs[r.toNat])
        ∃ imm, (∀ v, immediate (decodeWord word) = some v → imm = v) ∧ decodeStage oldX mout s =
          { s with
            x := .instr
              { pc := pc
                word := word
                op := decodeWord word
                rd := dest (decodeWord word)
                a := scalarOperand value (src1 (decodeWord word))
                b := scalarOperand value (src2 (decodeWord word))
                imm := imm
                predPc := predPc } }

/-- The hazard test (R354, R359). A source that is the destination of the instruction in execute rewinds: a bubble goes
into `X` and the fetch restarts at the instruction's own address. Under `EX_FORWARD` that happens only when the execute
stage's output is no register write (a load); otherwise its value is forwarded, and the instruction is decoded; `X.imm` of
an instruction without an immediate is left open. -/
def Obligations.HazardTest : Prop :=
  ∀ (s : State) (u : XInstr) (mout : WLatch) (pc : Word) (word : Word32) (predPc : Word) (r : Reg),
    s.d = .instr pc word predPc → u.rd = some r → (src1 (decodeWord word) = some r ∨ src2 (decodeWord word) = some r) →
      ((s.params.exForward = false ∨ ∀ pc' rd' value, s.m ≠ .reg pc' rd' value) →
        decodeStage (.instr u) mout s = { s with x := .bubble, pc := pc, fs := .fresh }) ∧
      ∀ pc' rd' value, s.params.exForward = true → s.m = .reg pc' rd' value →
        let zero := fun (q : Reg) => s.params.x0Hardwired = true ∧ s.params.x0ForwardQuirk = false ∧ q = 0#5
        let resolved := fun (q : Reg) =>
          if zero q then 0#64
          else if q = r then value
          else ((mout.sends q).or (s.w.sends q)).getD
            (if s.params.x0Hardwired = true ∧ q = 0#5 then 0#64 else s.regs[q.toNat])
        ∃ imm, (∀ v, immediate (decodeWord word) = some v → imm = v) ∧ decodeStage (.instr u) mout s =
          { s with
            x := .instr
              { pc := pc
                word := word
                op := decodeWord word
                rd := dest (decodeWord word)
                a := scalarOperand resolved (src1 (decodeWord word))
                b := scalarOperand resolved (src2 (decodeWord word))
                imm := imm
                predPc := predPc } }

/-- A fault token passes through decode and through execute unchanged, with no other effect (R352, R377), and raises its
halt in the cycle it is in `M`, with no call and no other effect (R386). -/
def Obligations.TokensPassAndHalt : Prop :=
  ∀ (s : State) (oldX : XLatch) (mout : WLatch) (pc : Word) (fault : FaultInfo),
    (s.d = .token pc fault → decodeStage oldX mout s = { s with x := .token pc fault }) ∧
      (s.x = .token pc fault → executeStage s = .next { s with m := .token pc fault }) ∧
      (s.m = .token pc fault → memoryStage s = .halt s fault.reason pc pc)

/-! ## The step and execute (70_reset_and_hazards.md sections 1 and 4) -/

/-- A step runs the decoded instruction: in a cycle in which the memory stage completes, the step is the meaning of the
instruction in latch `X` on the state that writeback and the memory stage leave (in which `X` is untouched), then decode,
fetch and the write of `W`. That a step is a cycle, so that an instruction runs in the cycle it is in `X`, is the model's
choice (assumption 13). -/
def Obligations.StepRunsInstruction : Prop :=
  ∀ (s s1 s2 : State) (mout : WLatch) (spent : Bool) (v : XInstr) (i : Instr),
    s.running = true → memoryStage s.writeback = .out s1 mout spent → s.x = .instr v → v.op = i →
      s1.x = .instr v ∧
        (exec i s1 = .next s2 →
          step s =
            match
              fetchStage s.bp s.pmem (spent && s.params.portSharing == .global) (decodeStage s.x mout s2)
            with
            | .next u => .next { u with w := mout }
            | .fault f => .fault f
            | .refused r => .refused r)

/-- Placing a word puts the instruction the decoder reads from it into latch `X`, for the next step to run, at the PC; the
memory stage then completes with nothing to do (assumption 12, the model's choice). -/
def Obligations.PlacedWordRuns : Prop :=
  ∀ (s : State) (nbits w : Nat), nbits ≤ 32 →
    ∃ v, (s.withFetchWord nbits w).x = .instr v ∧ v.op = decodeWord (BitVec.ofNat 32 (w % 2 ^ nbits)) ∧
      decodeTableWord nbits w = some v.op ∧ v.pc = s.pc ∧ v.predPc = s.pc + 4#64 ∧
      (s.withFetchWord nbits w).running = true ∧
      ∃ t, memoryStage (s.withFetchWord nbits w).writeback = .out t .bubble false

/-- A misprediction kills exactly the instruction in decode, and fetch goes on at the actual next PC in the same cycle
(R372, R374, R375): after the step no instruction is in `X`, and what follows is at the actual next PC. -/
def Obligations.RedirectKills : Prop :=
  ∀ (s s1 t : State) (mout : WLatch) (spent : Bool) (v : XInstr),
    s.running = true → memoryStage s.writeback = .out s1 mout spent → s.x = .instr v → step s = .next t →
      scalarNextPc v.op v.pc v.a v.b ≠ v.predPc →
        t.x = .bubble ∧ t.pcAfterX = scalarNextPc v.op v.pc v.a v.b

/-- A hazard without a redirect keeps the instruction: it is a bubble in `X`, and the instruction in `D` is fetched again
at its own address in the same cycle, or the PC holds that address (R355, R393). -/
def Obligations.RewindRefetches : Prop :=
  ∀ (s s1 t : State) (mout : WLatch) (spent : Bool) (v : XInstr) (pc : Word) (word : Word32) (predPc : Word) (r : Reg),
    s.running = true → memoryStage s.writeback = .out s1 mout spent → s.x = .instr v → s.d = .instr pc word predPc →
      step s = .next t → scalarNextPc v.op v.pc v.a v.b = v.predPc → v.rd = some r →
        (src1 (decodeWord word) = some r ∨ src2 (decodeWord word) = some r) → s.params.exForward = false →
          t.x = .bubble ∧ t.pcAfterX = pc

/-! ## Fetch (70_reset_and_hazards.md section 2) -/

/-- Fetch faults become tokens and fetch then holds (R347, R348): a misaligned fetch, before any translation; a translation
fault, whether the walk starts or goes on; and after a token a bubble only. -/
def Obligations.FetchFaultTokens : Prop :=
  ∀ (bp : Vector BpEntry 32) (mem : Memory) (spent : Bool) (s s' : State),
    (s.fs ≠ .faulted → s.pc.extractLsb' 0 2 ≠ 0#2 →
        fetchStage bp mem spent s
          = .next { s with d := .token s.pc { reason := .misaligned .instr, va := s.pc }, fs := .faulted }) ∧
      (∀ walk, s.pc.extractLsb' 0 2 = 0#2 →
        ((s.fs = .fresh ∧ walk = none) ∨ ∃ step issued, s.fs = .iTlb step issued ∧ walk = some (step, issued)) →
          translate .instr mem spent walk s.pc s = .pageFault s' →
            s'.pc = s.pc ∧
            fetchStage bp mem spent s
              = .next { s' with d := .token s.pc { reason := .pageFault .instr, va := s.pc }, fs := .faulted }) ∧
      (s.fs = .faulted → fetchStage bp mem spent s = .next { s with d := .bubble })

/-- A fetch that has its line delivers the 4 bytes at the address's offset, little-endian, with the predicted next PC, which
becomes the PC (R344, R345); a word with a stored byte is refused (R72). A fetch that hits in the I-TLB and the instruction
cache has its line in the same cycle, without a call. -/
def Obligations.FetchServesWord : Prop :=
  ∀ (bp : Vector BpEntry 32) (mem : Memory) (spent : Bool) (s : State) (pa : PAddr) (data : List (Option Byte)),
    let word := BitVec.ofNat 32 (leValue (resolveBytes pa.toNat (slice data (pa.toNat % 16) 4)))
    (storedTouches s.stored pa.toNat 4 = true → icacheServe bp pa data s = .refused (.storedByte pa.toNat)) ∧
      (storedTouches s.stored pa.toNat 4 = false →
        icacheServe bp pa data s
          = .next
            { s with
              d := .instr s.pc word (predict s.params bp s.pc)
              pc := predict s.params bp s.pc
              fs := .fresh }) ∧
      ∀ way, s.pc.extractLsb' 0 2 = 0#2 → (s.fs = .fresh ∨ ∃ step issued, s.fs = .iTlb step issued) →
        s.itlb.slots[(s.pc.extractLsb' 14 3).toNat].valid = true →
          s.itlb.slots[(s.pc.extractLsb' 14 3).toNat].tag = s.pc.extractLsb' 14 18 →
            pa = s.itlb.slots[(s.pc.extractLsb' 14 3).toNat].ppn ++ s.pc.extractLsb' 0 14 →
              hitWay (s.icache.ways (s.iIndex pa)) (s.iTag pa) = some way →
                data = (s.icache.line 16 (s.iIndex pa) way).data → fetchStage bp mem spent s = icacheServe bp pa data s

/-- A fetch stall writes a bubble, keeps the PC and records the progress (R346, R342, R343): while the walk goes on; when a
miss finds its call spent, by the walk or by the data side; in the first cycle of a fill, whose victim is chosen there, and
in every later one, while the read does not complete. The status a fill in progress has after a spent call is the model's
parameter with the readings of R64 and of R338 (assumption 11). -/
def Obligations.FetchStalls : Prop :=
  ∀ (bp : Vector BpEntry 32) (mem : Memory) (spent : Bool) (s s' : State) (pa : PAddr),
    s.pc.extractLsb' 0 2 = 0#2 →
      (∀ walk step issued, s.fetchWalk walk → translate .instr mem spent walk s.pc s = .retry s' step issued →
        s'.pc = s.pc ∧ fetchStage bp mem spent s = .next { s' with d := .bubble, fs := .iTlb step issued }) ∧
      (∀ walk, s.fetchWalk walk → translate .instr mem spent walk s.pc s = .done s' pa →
        hitWay (s'.icache.ways (s'.iIndex pa)) (s'.iTag pa) = none →
          s'.pc = s.pc ∧ fetchStage bp mem spent s = .next { s' with d := .bubble, fs := .iDeferred pa }) ∧
      (hitWay (s.icache.ways (s.iIndex pa)) (s.iTag pa) = none →
        (spent = true →
          (s.fetchReaches pa → fetchStage bp mem spent s = .next { s with d := .bubble, fs := .iDeferred pa }) ∧
          ∀ way issued, s.fs = .iFill pa way issued →
            fetchStage bp mem spent s =
              .next { s with d := .bubble, fs := if s.params.spentFill = .keep then s.fs else .iDeferred pa }) ∧
        ∀ rest, spent = false → s.latency = false :: rest → pa.toNat / 16 * 16 + 16 ≤ s.params.pmemSize →
          (∀ way, s.fetchReaches pa →
            pickVictim s (victimCandidates false (s.icache.ways (s.iIndex pa))) = (way, s') →
              s'.pc = s.pc ∧
                fetchStage bp mem spent s = .next { s'.answered rest with d := .bubble, fs := .iFill pa way true }) ∧
          ∀ way issued, s.fs = .iFill pa way issued →
            fetchStage bp mem spent s = .next { s.answered rest with d := .bubble, fs := .iFill pa way true })

/-- The first cycles from reset, with every call completing in the cycle it is made (R433): walk step 1, walk step 2 with
the fill deferred, then the fill, which delivers the word at the reset PC. -/
def Obligations.FirstFetchFromReset : Prop :=
  ∀ (params : Params) (resetPc : Word) (ptbr : PAddr) (regs : Vector Word 32) (mem : Memory) (more : List Bool)
      (pa : PAddr),
    let s0 : State := { State.launch params resetPc ptbr regs mem with latency := true :: true :: true :: more }
    params.wf = true → resetPc.extractLsb' 0 2 = 0#2 → s0.tableAddress resetPc = some pa →
      (level1Address ptbr (superpage resetPc)).toNat + 4 ≤ params.pmemSize →
        (level2Address (s0.pte1 (superpage resetPc)) (superpage resetPc)).toNat + 4 ≤ params.pmemSize →
          pa.toNat / 16 * 16 + 16 ≤ params.pmemSize →
            ∃ t1 t2 t3, step s0 = .next t1 ∧ t1.fs = .iTlb .second false ∧ t1.d = .bubble ∧
              step t1 = .next t2 ∧ t2.fs = .iDeferred pa ∧ t2.d = .bubble ∧
              step t2 = .next t3 ∧ t3.d = .instr resetPc (s0.wordAt pa) (predict params s0.bp resetPc) ∧
              t3.pc = predict params s0.bp resetPc ∧ t3.fs = .fresh

/-! ## Branch predictor (42_control.md section 4) -/

/-- The lookup under both policies (R247, R248). -/
def Obligations.PredictorLookup : Prop :=
  ∀ (p : Params) (bp : Vector BpEntry 32) (pc : Word),
    let e := bp[((pc >>> p.bpIndexShift).extractLsb' 0 5).toNat]
    (p.bpPolicy = .counter2 →
        predict p bp pc = if e.branch = pc ∧ 2 ≤ e.ctr.toNat then e.target else pc + 4#64) ∧
      (p.bpPolicy = .btfnt →
        predict p bp pc = if e.branch = pc ∧ e.target.toNat ≤ (pc + 4#64).toNat then e.target else pc + 4#64)

/-- The update (R246, R249 to R251): when it is made, at which entry, and what it writes. -/
def Obligations.PredictorUpdate : Prop :=
  ∀ (p : Params) (bp : Vector BpEntry 32) (pc nextPc takenTarget : Word),
    let taken := nextPc ≠ pc + 4#64
    let target := if p.bpUpdateOn = .taken then nextPc else takenTarget
    let i := ((if p.bpUpdateIndex = .target then target else pc) >>> p.bpIndexShift).extractLsb' 0 5
    let e := bp[i.toNat]
    let moved := if taken then min 3 (e.ctr.toNat + 1) else e.ctr.toNat - 1
    bpResolve p bp pc nextPc takenTarget =
      if p.bpUpdateOn = .taken ∧ nextPc = pc + 4#64 then bp
      else
        bp.set i.toNat
          (if e.target = target then { e with ctr := BitVec.ofNat 2 moved }
            else { branch := pc, target := target, ctr := if taken then 3#2 else 0#2 })

/-! ## Translation (20_memory.md section 6) -/

/-- A TLB hit, and the two steps of the walk when the call completes at once and when it does not (R82 to R87). -/
def Obligations.TranslationSteps : Prop :=
  ∀ (side : Side) (mem : Memory) (spent : Bool) (va : Word) (s : State),
    let sp := va.extractLsb' 14 18
    let index := va.extractLsb' 14 3
    let slot := (s.tlb side).slots[index.toNat]
    let entry := fun (a : PAddr) => BitVec.ofNat 32 (leValue (resolveBytes a.toNat (mem.readBytes a.toNat 4)))
    let a1 := s.ptbr + (va.extractLsb' 22 10).setWidth 32 * 4#32
    let a2 := (s.tlb side).l2a
    let reads := fun (a : PAddr) =>
      spent = false ∧ storedTouches s.stored a.toNat 4 = false ∧ a.toNat + 4 ≤ s.params.pmemSize
    (∀ walk, slot.valid = true → slot.tag = sp →
        translate side mem spent walk va s = .hit (slot.ppn ++ va.extractLsb' 0 14)) ∧
      (∀ walk latency, ¬(slot.valid = true ∧ slot.tag = sp) → (walk = none ∨ ∃ issued, walk = some (.first, issued)) →
        reads a1 →
          (s.latency = true :: latency →
            translate side mem spent walk va s =
              if (entry a1).getLsbD 31 = false then .pageFault { s with latency := latency, calls := s.calls + 1 }
              else
                .retry
                  (({ s with latency := latency, calls := s.calls + 1 } : State).setTlb side
                    { s.tlb side with
                      l2a :=
                        (((entry a1).extractLsb' 0 18).setWidth 32 <<< 14) + (va.extractLsb' 14 8).setWidth 32 * 4#32 })
                  .second false) ∧
          (s.latency = false :: latency →
            translate side mem spent walk va s
              = .retry { s with latency := latency, calls := s.calls + 1 } .first true)) ∧
      ∀ issued latency, ¬(slot.valid = true ∧ slot.tag = sp) → reads a2 →
        (s.latency = true :: latency →
          translate side mem spent (some (.second, issued)) va s =
            if (entry a2).getLsbD 31 = false then .pageFault { s with latency := latency, calls := s.calls + 1 }
            else
              .done
                (({ s with latency := latency, calls := s.calls + 1 } : State).setTlb side
                  { s.tlb side with
                    slots :=
                      (s.tlb side).slots.set index.toNat
                        { valid := true, tag := sp, ppn := (entry a2).extractLsb' 0 18 } })
                ((entry a2).extractLsb' 0 18 ++ va.extractLsb' 0 14)) ∧
        (s.latency = false :: latency →
          translate side mem spent (some (.second, issued)) va s
            = .retry { s with latency := latency, calls := s.calls + 1 } .second true)

/-- Translation is idempotent (R112): after a walk has finished, a translation of the same superpage by the same TLB is a hit
that gives the walk's page, in every state whose slot for it the walk's install is still in. -/
def Obligations.TlbIdempotent : Prop :=
  ∀ (side : Side) (mem mem' : Memory) (spent spent' : Bool) (walk walk' : Option (WalkStep × Bool)) (va va' : Word)
      (s t u : State) (pa : PAddr),
    translate side mem spent walk va s = .done t pa → va'.extractLsb' 14 18 = va.extractLsb' 14 18 →
      (u.tlb side).slots[(va.extractLsb' 14 3).toNat] = (t.tlb side).slots[(va.extractLsb' 14 3).toNat] →
        translate side mem' spent' walk' va' u = .hit (pa.extractLsb' 14 18 ++ va'.extractLsb' 0 14)

/-- The internal slot mismatch is unreachable (R88, R307): no translation gives it, and no step brings it into a state. -/
def Obligations.SlotMismatchUnreachable : Prop :=
  (∀ (side : Side) (mem : Memory) (spent : Bool) (walk : Option (WalkStep × Bool)) (va : Word) (s t : State),
      translate side mem spent walk va s ≠ .slotMismatch t) ∧
    ∀ s t : State, s.noMismatch → step s = .next t → t.noMismatch

/-! ## The memory stage (20_memory.md, 43_loadstore.md, 70_reset_and_hazards.md section 5) -/

/-- The victim is an invalid way if there is one, else under write-back a clean way if there is one (R98); with one way it
is way 0, without a draw. Which of several candidates a draw picks is the model's choice (assumption 7). -/
def Obligations.VictimChoice : Prop :=
  ∀ (s t : State) (writeBack : Bool) (ways : List Line) (way : Nat),
    ways ≠ [] → pickVictim s (victimCandidates writeBack ways) = (way, t) →
      ∃ l, ways[way]? = some l ∧ ((∃ k ∈ ways, k.valid = false) → l.valid = false) ∧
        ((∀ k ∈ ways, k.valid = true) → writeBack = true → (∃ k ∈ ways, k.dirty = false) → l.dirty = false) ∧
        (ways.length = 1 → way = 0 ∧ t = s)

/-- The halts of a load or store (R68, R304, R306, R309). A multi-byte access is misaligned exactly when its offset in the
8-byte line is not a multiple of 4 or it crosses the line; it halts before any translation or call. An aligned one whose
translation faults halts with its address. -/
def Obligations.MemoryHalts : Prop :=
  ∀ (s : State) (pc va : Word) (rd : Option Reg) (size : AccessSize) (signed : Bool) (value : Word),
    (s.m = .load pc rd va size signed ∨ s.m = .store pc va size value) →
      (1 < size.bytes ∧ (va.toNat % 8 % 4 ≠ 0 ∨ 8 < va.toNat % 8 + size.bytes) →
        memoryStage s = .halt s (.misaligned .data) pc va) ∧
      (¬(1 < size.bytes ∧ (va.toNat % 8 % 4 ≠ 0 ∨ 8 < va.toNat % 8 + size.bytes)) →
        (∀ t pc' va', memoryStage s ≠ .halt t (.misaligned .data) pc' va') ∧
          ∀ walk t, ((s.ms = .idle ∧ walk = none) ∨ ∃ step issued, s.ms = .dTlb step issued ∧ walk = some (step, issued)) →
            translate .data s.pmem false walk va s = .pageFault t →
              memoryStage s = .halt t (.pageFault .data) pc va)

/-- An access whose line the data cache holds: it hits, reached by a D-TLB hit, from `DDeferred` or at the end of its walk, or
its fill completes in this cycle (R100, R101). A load delivers the slice (R96) and a store under write-back replaces it and
marks the line dirty (R103), in the same cycle with no call of the cache's own. A store under write-through (R104) also
writes the backing store: it completes, its slice replaced and the line's dirty bit as it was, in the cycle that write
completes, and stalls with `DWriteThrough` until then, which it also does where the walk or the fill has spent the call. The
bytes of a completed store join `STORED` (R72). The value in `W` of a store is left open. -/
def Obligations.HitCompletes : Prop :=
  ∀ (s u : State) (pc va : Word) (rd : Option Reg) (size : AccessSize) (signed : Bool) (value : Word) (pa : PAddr)
      (way : Nat) (spent : Bool),
    ¬(1 < size.bytes ∧ (va.toNat % 8 % 4 ≠ 0 ∨ 8 < va.toNat % 8 + size.bytes)) →
      (s.reachesCache va u pa spent ∨ (s.fillCompletes va pa way u ∧ spent = true) ∨
          (u = s ∧ spent = false ∧ ∃ issued, s.ms = .dWriteThrough pa issued)) →
        hitWay (u.dcache.ways (u.dIndex pa)) (u.dTag pa) = some way →
          let line := u.dcache.line 8 (u.dIndex pa) way
          let bytes := slice line.data (pa.toNat % 8) size.bytes
          let stored := fun (t : State) (dirty : Bool) =>
            { t with
              ms := .idle
              dcache :=
                u.dcache.setLine (u.dIndex pa) way
                  { line with
                    data := putSlice line.data (pa.toNat % 8) ((storeBytes size value).map some)
                    dirty := dirty }
              stored := storedAdd u.stored pa.toNat size.bytes }
          (s.m = .load pc rd va size signed →
            memoryStage s =
              .out { u with ms := .idle } (.retire pc rd (extendSlice size signed (leValue (resolveBytes pa.toNat bytes))))
                spent) ∧
          (s.m = .store pc va size value → s.params.dcachePolicy = .writeBack →
            ∃ x, memoryStage s = .out (stored u true) (.retire pc none x) spent) ∧
          (s.m = .store pc va size value → s.params.dcachePolicy = .writeThrough →
            (spent = true → ∃ issued, memoryStage s = .stall { u with ms := .dWriteThrough pa issued }) ∧
            ∀ rest, spent = false → pa.toNat + size.bytes ≤ s.params.pmemSize →
              (s.latency = true :: rest →
                ∃ x, memoryStage s =
                  .out
                    (stored
                      { s.answered rest with pmem := s.pmem.writeBytes pa.toNat ((storeBytes size value).map some) }
                      line.dirty)
                    (.retire pc none x) true) ∧
              (s.latency = false :: rest → memoryStage s = .stall { s.answered rest with ms := .dWriteThrough pa true }))

/-- An 8-byte store that misses installs its line from the store value without a fill, in a set of any number of ways, from a
D-TLB hit or from `DDeferred` (R105, R108). Under write-back it completes in the cycle of the miss with no call, or, when
its victim is dirty, in the cycle the victim's write-back completes. Under write-through the line is installed clean and
the store completes when its own write does; that it is installed before is the model's choice (assumption 10). The value
in `W` is left open. -/
def Obligations.DoublewordStoreSkipsFill : Prop :=
  ∀ (s t : State) (pc va value : Word) (pa : PAddr) (way : Nat),
    s.m = .store pc va .b8 value → va.toNat % 8 = 0 → pa.toNat % 8 = 0 → way < (s.dcache.ways (s.dIndex pa)).length →
      let bytes := (storeBytes .b8 value).map some
      let installed := fun (u : State) (dirty : Bool) =>
        u.dcache =
            s.dcache.setLine (s.dIndex pa) way { valid := true, tag := s.dTag pa, data := bytes, dirty := dirty } ∧
          ∀ a : Nat, u.stored.contains a = (s.stored.contains a || (decide (pa.toNat ≤ a) && decide (a < pa.toNat + 8)))
      let after := fun (u : State) (latency : List Bool) (calls : Nat) (pmem : Memory) (ms : MemStatus) =>
        u.latency = latency ∧ u.calls = calls ∧ u.pmem = pmem ∧ u.ms = ms ∧ u.victims = t.victims ∧ u.dtlb = s.dtlb
      (s.params.dcachePolicy = .writeBack → s.fillsWay va pa way t →
        ∃ u x, memoryStage s = .out u (.retire pc none x) false ∧ installed u true ∧
          after u s.latency s.calls s.pmem .idle) ∧
      (∀ victimPa rest, s.params.dcachePolicy = .writeBack → s.writesBack va pa way victimPa t →
        victimPa.toNat + (s.dLine pa way).data.length ≤ s.params.pmemSize → s.latency = true :: rest →
          ∃ u x, memoryStage s = .out u (.retire pc none x) true ∧ installed u true ∧
            after u rest (s.calls + 1) (s.pmem.writeBytes victimPa.toNat (s.dLine pa way).data) .idle) ∧
      ∀ rest, s.params.dcachePolicy = .writeThrough → s.fillsWay va pa way t → pa.toNat + 8 ≤ s.params.pmemSize →
        (s.latency = true :: rest →
          ∃ u x, memoryStage s = .out u (.retire pc none x) true ∧ installed u false ∧
            after u rest (s.calls + 1) (s.pmem.writeBytes pa.toNat bytes) .idle) ∧
        (s.latency = false :: rest →
          ∃ u, memoryStage s = .stall u ∧ installed u false ∧
            after u rest (s.calls + 1) s.pmem (.dWriteThrough pa true))

/-- What the data side sees of memory changes only by completed stores, and exactly at their bytes (R73, R109, R110): fills,
evictions, write-backs and walks change none of it. The one other change is the model's choice of assumption 10: under
write-through an 8-byte store that missed is already in its line while its write is under way. -/
def Obligations.MemoryViewFollowsStores : Prop :=
  ∀ s t : State, Inv s → s.running = true → step s = .next t →
    (∀ pa size value, s.storesAt pa size value →
        ∀ a, t.viewByte a = if inAccess pa size.bytes a then some (storedByteAt pa value a) else s.viewByte a) ∧
      ((∀ pa size value, ¬s.storesAt pa size value) →
        ∀ a, t.viewByte a = s.viewByte a ∨
          (s.writeBack = false ∧
            ∃ pc va value pa issued, s.m = .store pc va .b8 value ∧ t.ms = .dWriteThrough pa issued ∧
              inAccess pa 8 a = true ∧ t.viewByte a = some (storedByteAt pa value a)))

/-- A load that completes delivers the bytes the data side sees at its physical address, little-endian, sign- or
zero-extended (R262, R264 to R270). -/
def Obligations.LoadDeliversView : Prop :=
  ∀ (s t : State) (pa : PAddr) (rd : Option Reg) (size : AccessSize) (signed : Bool),
    Inv s → step s = .next t → s.loadsAt pa rd size signed →
      let v := s.viewValue pa size.bytes
      ∃ pc,
        t.w = .retire pc rd
          (match size, signed with
            | .b1, true => (BitVec.ofNat 8 v).signExtend 64
            | .b2, true => (BitVec.ofNat 16 v).signExtend 64
            | .b4, true => (BitVec.ofNat 32 v).signExtend 64
            | .b8, true => BitVec.ofNat 64 v
            | .b1, false => (BitVec.ofNat 8 v).setWidth 64
            | .b2, false => (BitVec.ofNat 16 v).setWidth 64
            | .b4, false => (BitVec.ofNat 32 v).setWidth 64
            | .b8, false => BitVec.ofNat 64 v)

/-- Round trip (R109, R276): on a run, a load of the size and address of an earlier store, with no completed store to an
overlapping byte in between, delivers the stored value, whatever hit, missed, was evicted or written through. -/
def Obligations.StoreThenLoad : Prop :=
  ∀ (s a b c : State) (i j : Nat) (pa : PAddr) (rd : Option Reg) (size : AccessSize) (signed : Bool) (value : Word),
    Inv s → s.after i = some a → a.storesAt pa size value → i < j → s.after j = some b →
      b.loadsAt pa rd size signed → step b = .next c →
        (∀ k u q n w, i < k → k < j → s.after k = some u → u.storesAt q n w →
          ∀ x, inAccess pa size.bytes x = true → inAccess q n.bytes x = false) →
          ∃ pc, c.w = .retire pc rd (extendSlice size signed (value.toNat % 2 ^ (8 * size.bytes)))

/-- No access waits for ever: with a backing store that fills the physical space and completes each call in the cycle it is
made, and no page-table byte the access's walk reads stored to, the load or store in `M` completes or halts within 4 cycles
(R62, R91, R102), write-backs of dirty victims included. -/
def Obligations.AccessCompletes : Prop :=
  ∀ (s : State) (va : Word) (size : AccessSize) (more : List Bool),
    Inv s → TranslationInv s → s.running = true → s.m.access = some (va, size) →
      s.params.pmemSize = 2 ^ 32 → s.ptbr.toNat % 4 = 0 → s.tableClean (superpage va) = true →
        s.latency = true :: true :: true :: true :: more →
          ∃ n t, n ≤ 3 ∧ s.after n = some t ∧
            (t.completesM ∨ ∃ u reason pc va, memoryStage t.writeback = .halt u reason pc va)

/-- The backing store changes only at bytes in `STORED`; `STORED` grows by exactly the bytes of a completed store (R72), and
otherwise only by those of an 8-byte store already installed under write-through (assumption 10, the model's choice); under
write-through the backing store agrees with the data side's view whenever no access is in progress (R110). -/
def Obligations.BackingStoreFollows : Prop :=
  (∀ s t : State, Inv s → step s = .next t → ∀ a, t.pmem.read a ≠ s.pmem.read a → t.stored.contains a = true) ∧
    (∀ s t : State, Inv s → step s = .next t → ∀ pa size value, s.storesAt pa size value →
      ∀ a : Nat, t.stored.contains a
        = (s.stored.contains a || (decide (pa.toNat ≤ a) && decide (a < pa.toNat + size.bytes)))) ∧
    (∀ s t : State, Inv s → step s = .next t → (∀ pa size value, ¬s.storesAt pa size value) →
      ∀ a : Nat, t.stored.contains a = s.stored.contains a ∨
        (s.writeBack = false ∧
          ∃ pc va value pa issued, s.m = .store pc va .b8 value ∧ t.ms = .dWriteThrough pa issued ∧
            pa.toNat ≤ a ∧ a < pa.toNat + 8 ∧ t.stored.contains a = true)) ∧
    ∀ s : State, Inv s → s.writeBack = false → s.ms = .idle → ∀ a : PAddr, s.viewByte a = s.pmem.read a.toNat

/-- The stops, each by name: a call outside the backing store (R71), and a page-table read or an instruction fetch that
touches a byte in `STORED` (R72). That the first is called a fault and the second a refusal is the model's choice. -/
def Obligations.StopsAreNamed : Prop :=
  ∀ (s : State) (mem : Memory) (issued : Bool) (pa n : Nat) (bytes : List (Option Byte)),
    (s.params.pmemSize < pa + n → physRead s mem issued pa n = .stop (.outsideMemory pa)) ∧
      (s.params.pmemSize < pa + bytes.length → physWrite s issued pa bytes = .stop (.outsideMemory pa)) ∧
      (∀ side walk va, ¬((s.tlb side).slots[(va.extractLsb' 14 3).toNat].valid = true
            ∧ (s.tlb side).slots[(va.extractLsb' 14 3).toNat].tag = va.extractLsb' 14 18) →
          let step := (walk.getD (WalkStep.first, false)).1
          storedTouches s.stored (walkAddress s side step va).toNat 4 = true →
            translate side mem false walk va s = .stop (.refuse (.storedByte (walkAddress s side step va).toNat))) ∧
      ∀ (bp : Vector BpEntry 32) (a : PAddr) (data : List (Option Byte)), storedTouches s.stored a.toNat 4 = true →
        icacheServe bp a data s = .refused (.storedByte a.toNat)

/-! ## Run status and arbitration (60_exceptions.md, 70_reset_and_hazards.md sections 6 and 7) -/

/-- Halts are precise and final (R305, R308): in the halt cycle writeback commits `W`, the halt record is written, and
nothing else changes but the count of calls made; a halted machine never changes again. -/
def Obligations.HaltIsPreciseAndFinal : Prop :=
  (∀ (s s1 : State) (reason : HaltReason) (pc va : Word), s.running = true →
      memoryStage s.writeback = .halt s1 reason pc va →
        ∃ latency calls, step s
          = .next { s.writeback with halt := .halted reason pc va, latency := latency, calls := calls }) ∧
    ∀ (s : State) (reason : HaltReason) (pc va : Word), s.halt = .halted reason pc va → step s = .next s

/-- A global memory stall freezes the pipeline (R392): a bubble goes into `W`, writeback commits, the memory stage's own
changes take effect, and every other latch, the PC, the fetch side, the predictor and the log keep their values. What the
stall leaves in `MS` (R108): the walk's step; `DDeferred` when a walk has spent the call of a miss; `DEvict` while a dirty
victim's write-back does not complete, and `DFill` with the victim invalid when it does, but for an 8-byte store; `DFill`
while the read of a fill does not complete; `DWriteThrough` after the fill of a smaller write-through store. A cycle that
completes leaves `Idle` (R384). -/
def Obligations.StallFreezes : Prop :=
  (∀ s s1 : State, s.running = true → memoryStage s.writeback = .stall s1 →
    ∃ t, step s = .next t ∧ t.w = .bubble ∧ t.regs = s.writeback.regs ∧ t.ms = s1.ms ∧ t.dtlb = s1.dtlb ∧
      t.dcache = s1.dcache ∧ t.pmem = s1.pmem ∧ t.stored = s1.stored ∧ t.pc = s.pc ∧ t.fs = s.fs ∧ t.d = s.d ∧
      t.x = s.x ∧ t.m = s.m ∧ t.bp = s.bp ∧ t.log = s.log ∧ t.itlb = s.itlb ∧ t.icache = s.icache ∧ t.halt = s.halt) ∧
    (∀ (s t : State) (mout : WLatch) (spent : Bool), memoryStage s = .out t mout spent → t.ms = .idle) ∧
    ∀ (s t : State) (pc va : Word) (rd : Option Reg) (size : AccessSize) (signed : Bool) (value : Word) (pa : PAddr)
        (way : Nat) (rest : List Bool),
      (s.m = .load pc rd va size signed ∨ s.m = .store pc va size value) →
        ¬(1 < size.bytes ∧ (va.toNat % 8 % 4 ≠ 0 ∨ 8 < va.toNat % 8 + size.bytes)) →
          let doubleStore := s.m = .store pc va .b8 value
          (∀ walk step issued, s.dataWalk walk → translate .data s.pmem false walk va s = .retry t step issued →
            memoryStage s = .stall { t with ms := .dTlb step issued }) ∧
          (s.reachesCache va t pa true → t.dMisses pa → memoryStage s = .stall { t with ms := .dDeferred pa }) ∧
          (∀ victimPa, s.writesBack va pa way victimPa t →
            victimPa.toNat + (s.dLine pa way).data.length ≤ s.params.pmemSize →
              (s.latency = false :: rest →
                memoryStage s = .stall { t.answered rest with ms := .dEvict pa way victimPa true }) ∧
              (s.latency = true :: rest → ¬doubleStore →
                memoryStage s =
                  .stall
                    { t.answered rest with
                      ms := .dFill pa way false
                      pmem := s.pmem.writeBytes victimPa.toNat (s.dLine pa way).data
                      dcache :=
                        s.dcache.setLine (s.dIndex pa) way { s.dLine pa way with valid := false, dirty := false } })) ∧
          (s.fillsWay va pa way t → ¬doubleStore → pa.toNat / 8 * 8 + 8 ≤ s.params.pmemSize → s.latency = false :: rest →
            memoryStage s = .stall { t.answered rest with ms := .dFill pa way true }) ∧
          (s.fillCompletes va pa way t → s.m = .store pc va size value → s.params.dcachePolicy = .writeThrough →
            ∃ issued, memoryStage s = .stall { t with ms := .dWriteThrough pa issued })

/-- Writeback (R400, R22): in every cycle of a running machine latch `W` is committed, and nothing else writes a register;
the state decode reads its registers from already holds the write. -/
def Obligations.WritebackCommits : Prop :=
  ∀ s t : State, s.running = true → step s = .next t →
    (∀ pc r v, s.w = .retire pc (some r) v →
        t.regs = if s.params.x0Hardwired = true ∧ r = 0#5 then s.regs else s.regs.set r.toNat v) ∧
      (∀ pc v, s.w = .retire pc none v → t.regs = s.regs) ∧ (s.w = .bubble → t.regs = s.regs) ∧
      ∀ s1 mout spent, memoryStage s.writeback = .out s1 mout spent → s1.regs = t.regs

/-- The log (R302, R286, R376): it grows by exactly the entry of an illegal instruction in `X`, in a cycle in which the
execute stage runs, and otherwise never changes. -/
def Obligations.LogGrowsByIllegal : Prop :=
  ∀ s t : State, step s = .next t →
    (∀ v word s1 mout spent, s.running = true → memoryStage s.writeback = .out s1 mout spent → s.x = .instr v →
        v.op = .illegal word → t.log = s.log ++ [(v.pc, v.word)]) ∧
      (t.log ≠ s.log →
        s.running = true ∧ (∃ s1 mout spent, memoryStage s.writeback = .out s1 mout spent) ∧
          ∃ v word, s.x = .instr v ∧ v.op = .illegal word)

/-- Each side uses only its own units (R79, R349, R382): the fetch stage touches no data-side state, no register and no
byte of memory; the memory stage touches no fetch-side state, no latch and no register. No step changes `PTBR` (R30). -/
def Obligations.SidesAreSeparate : Prop :=
  (∀ (bp : Vector BpEntry 32) (mem : Memory) (spent : Bool) (s t : State), fetchStage bp mem spent s = .next t →
      t.dtlb = s.dtlb ∧ t.dcache = s.dcache ∧ t.ms = s.ms ∧ t.regs = s.regs ∧ t.x = s.x ∧ t.m = s.m ∧ t.w = s.w ∧
        t.bp = s.bp ∧ t.log = s.log ∧ t.halt = s.halt ∧ t.stored = s.stored ∧ t.pmem = s.pmem) ∧
    (∀ (s t : State),
      ((∃ mout spent, memoryStage s = .out t mout spent) ∨ memoryStage s = .stall t ∨
          ∃ reason pc va, memoryStage s = .halt t reason pc va) →
        t.itlb = s.itlb ∧ t.icache = s.icache ∧ t.fs = s.fs ∧ t.pc = s.pc ∧ t.d = s.d ∧ t.x = s.x ∧ t.m = s.m ∧
          t.w = s.w ∧ t.regs = s.regs ∧ t.bp = s.bp ∧ t.log = s.log ∧ t.halt = s.halt) ∧
    ∀ s t : State, step s = .next t → t.ptbr = s.ptbr ∧ t.params = s.params

/-! ## Reset (70_reset_and_hazards.md section 10) -/

/-- The reset table (R430), for every launch: the harness's values stand in the registers, the PC, `PTBR` and the backing
store, and every element of the block has its reset value. -/
def Obligations.ResetState : Prop :=
  ∀ (params : Params) (resetPc : Word) (ptbr : PAddr) (regs : Vector Word 32) (mem : Memory),
    let s := State.launch params resetPc ptbr regs mem
    s.regs = regs ∧ s.pc = resetPc ∧ s.ptbr = ptbr ∧ s.pmem = mem ∧ s.params = params ∧
      s.d = .bubble ∧ s.x = .bubble ∧ s.m = .bubble ∧ s.w = .bubble ∧ s.fs = .fresh ∧ s.ms = .idle ∧
      s.halt = .running ∧ s.log = [] ∧ s.stored = [] ∧
      (∀ i : BitVec 3, s.itlb.slots[i.toNat].valid = false ∧ s.dtlb.slots[i.toNat].valid = false) ∧
      (∀ i : BitVec 5, s.bp[i.toNat] = { branch := 0#64, target := 0#64, ctr := 0#2 }) ∧
      s.icache.length = params.icacheRows ∧ s.dcache.length = params.dcacheRows ∧
      (∀ set ∈ s.icache, set.length = params.icacheWays ∧
        ∀ l ∈ set, l.valid = false ∧ l.dirty = false ∧ l.data.length = 16) ∧
      ∀ set ∈ s.dcache, set.length = params.dcacheWays ∧
        ∀ l ∈ set, l.valid = false ∧ l.dirty = false ∧ l.data.length = 8

/-- Every launch within the bounds of R11 meets every invariant below, `State.reset` among them. -/
def Obligations.ResetMeetsInvariants : Prop :=
  (∀ (params : Params) (resetPc : Word) (ptbr : PAddr) (regs : Vector Word 32) (mem : Memory),
      params.wf = true → mem.wf = true → (∀ c ∈ mem, c.1 < params.pmemSize) →
        let s := State.launch params resetPc ptbr regs mem
        Inv s ∧ TranslationInv s ∧ FetchedWordInv s ∧ s.chained = true ∧ s.operandsFresh = true ∧ s.noMismatch) ∧
    Inv State.reset ∧ State.reset.running = true

/-! ## Invariants of every step -/

/-- The structural invariant is kept: the memories keep their canonical form, the caches keep their shape, hold each line
at most once and agree with the backing store off `STORED`, latch `X` holds what the decoder gives, and the status
registers belong to the access in progress (R39, R72, R95, R101, R108). -/
def Obligations.InvariantKept : Prop :=
  ∀ s t : State, Inv s → step s = .next t → Inv t

/-- Program order in the pipeline is kept: each latch holds what the one below it was predicted to be followed by, so no
instruction is lost or repeated by a stall, a rewind or a kill (R393). -/
def Obligations.ProgramOrderKept : Prop :=
  ∀ s t : State, s.chained = true → step s = .next t → t.chained = true

/-- No operand is stale (R361): under parameters for which `x0` reads as one value, the operands in `X` are always the
architectural values of its sources. -/
def Obligations.OperandsStayFresh : Prop :=
  ∀ s t : State, s.plainX0 = true → s.decodedX = true → s.operandsFresh = true → step s = .next t →
    t.operandsFresh = true

/-- Both TLBs, the walks in progress and the translated addresses held stay those of the page table, for pages whose
entries the program has not stored to (R81 to R89, R111). -/
def Obligations.TranslationKept : Prop :=
  ∀ s t : State, Inv s → TranslationInv s → step s = .next t → TranslationInv t

/-- The words in `D` and `X` stay those the page table and the backing store give their addresses, for a program that meets
the coherence obligation there (R72, R111, R344). -/
def Obligations.FetchedWordsAreTheProgram : Prop :=
  ∀ s t : State, Inv s → TranslationInv s → FetchedWordInv s → step s = .next t → FetchedWordInv t

/-- The pipeline computes what a scalar machine computes (R184, R361, R372, R393, R410). In a cycle in which the memory stage
completes, the instruction in `X`, if there is one, makes the next instruction to execute the one at its scalar next PC, and
changes the architectural registers as the scalar machine does: its scalar result in its destination, from the
architectural values of its sources, and nothing else but what the memory stage delivered. With no instruction in `X`, and
in every other cycle, only what the memory stage delivered changes. -/
def Obligations.ScalarExecution : Prop :=
  ∀ s t : State, s.plainX0 = true → s.decodedX = true → s.operandsFresh = true → s.chained = true → s.running = true →
    step s = .next t →
      (∀ s1 mout spent v, memoryStage s.writeback = .out s1 mout spent → s.x = .instr v →
        let a := scalarOperand (s.archRegAfter mout) (src1 v.op)
        let b := scalarOperand (s.archRegAfter mout) (src2 v.op)
        t.nextToExecute = scalarNextPc v.op v.pc a b ∧
          ∀ r, t.archReg r =
            s.settle r (if dest v.op = some r then scalarResult s.params v.op v.pc a b else none) (s.archRegAfter mout r)) ∧
      (∀ s1 mout spent, memoryStage s.writeback = .out s1 mout spent → (∀ v, s.x ≠ .instr v) →
        t.nextToExecute = s.nextToExecute ∧ ∀ r, t.archReg r = s.archRegAfter mout r) ∧
      ((∀ s1 mout spent, memoryStage s.writeback ≠ .out s1 mout spent) →
        t.nextToExecute = s.nextToExecute ∧ ∀ r, t.archReg r = s.archReg r)
end

