-- ==== Sys2Proof/Laws/State.lean ====
section
/-! SUPPORT. One lemma per field for each named update of the state, so that no proof unfolds a record update: what an update
writes, and that it leaves every other field. -/

namespace Sys2Proof.Machine

/-! ## `markStored` -/

@[simp] theorem State.markStored_regs (s : State) (k n : Nat) : (s.markStored k n).regs = s.regs := rfl
@[simp] theorem State.markStored_pc (s : State) (k n : Nat) : (s.markStored k n).pc = s.pc := rfl
@[simp] theorem State.markStored_d (s : State) (k n : Nat) : (s.markStored k n).d = s.d := rfl
@[simp] theorem State.markStored_x (s : State) (k n : Nat) : (s.markStored k n).x = s.x := rfl
@[simp] theorem State.markStored_m (s : State) (k n : Nat) : (s.markStored k n).m = s.m := rfl
@[simp] theorem State.markStored_w (s : State) (k n : Nat) : (s.markStored k n).w = s.w := rfl
@[simp] theorem State.markStored_fs (s : State) (k n : Nat) : (s.markStored k n).fs = s.fs := rfl
@[simp] theorem State.markStored_ms (s : State) (k n : Nat) : (s.markStored k n).ms = s.ms := rfl
@[simp] theorem State.markStored_itlb (s : State) (k n : Nat) : (s.markStored k n).itlb = s.itlb := rfl
@[simp] theorem State.markStored_dtlb (s : State) (k n : Nat) : (s.markStored k n).dtlb = s.dtlb := rfl
@[simp] theorem State.markStored_icache (s : State) (k n : Nat) : (s.markStored k n).icache = s.icache := rfl
@[simp] theorem State.markStored_dcache (s : State) (k n : Nat) : (s.markStored k n).dcache = s.dcache := rfl
@[simp] theorem State.markStored_bp (s : State) (k n : Nat) : (s.markStored k n).bp = s.bp := rfl
@[simp] theorem State.markStored_halt (s : State) (k n : Nat) : (s.markStored k n).halt = s.halt := rfl
@[simp] theorem State.markStored_log (s : State) (k n : Nat) : (s.markStored k n).log = s.log := rfl
@[simp] theorem State.markStored_stored (s : State) (k n : Nat) : (s.markStored k n).stored = storedAdd s.stored k n := rfl
@[simp] theorem State.markStored_pmem (s : State) (k n : Nat) : (s.markStored k n).pmem = s.pmem := rfl
@[simp] theorem State.markStored_ptbr (s : State) (k n : Nat) : (s.markStored k n).ptbr = s.ptbr := rfl
@[simp] theorem State.markStored_params (s : State) (k n : Nat) : (s.markStored k n).params = s.params := rfl
@[simp] theorem State.markStored_latency (s : State) (k n : Nat) : (s.markStored k n).latency = s.latency := rfl
@[simp] theorem State.markStored_calls (s : State) (k n : Nat) : (s.markStored k n).calls = s.calls := rfl
@[simp] theorem State.markStored_victims (s : State) (k n : Nat) : (s.markStored k n).victims = s.victims := rfl
@[simp] theorem State.markStored_draws (s : State) (k n : Nat) : (s.markStored k n).draws = s.draws := rfl

/-! ## `logIllegal` -/

@[simp] theorem State.logIllegal_regs (s : State) (pc : Word) (word : Word32) : (s.logIllegal pc word).regs = s.regs := rfl
@[simp] theorem State.logIllegal_pc (s : State) (pc : Word) (word : Word32) : (s.logIllegal pc word).pc = s.pc := rfl
@[simp] theorem State.logIllegal_d (s : State) (pc : Word) (word : Word32) : (s.logIllegal pc word).d = s.d := rfl
@[simp] theorem State.logIllegal_x (s : State) (pc : Word) (word : Word32) : (s.logIllegal pc word).x = s.x := rfl
@[simp] theorem State.logIllegal_m (s : State) (pc : Word) (word : Word32) : (s.logIllegal pc word).m = s.m := rfl
@[simp] theorem State.logIllegal_w (s : State) (pc : Word) (word : Word32) : (s.logIllegal pc word).w = s.w := rfl
@[simp] theorem State.logIllegal_fs (s : State) (pc : Word) (word : Word32) : (s.logIllegal pc word).fs = s.fs := rfl
@[simp] theorem State.logIllegal_ms (s : State) (pc : Word) (word : Word32) : (s.logIllegal pc word).ms = s.ms := rfl
@[simp] theorem State.logIllegal_itlb (s : State) (pc : Word) (word : Word32) : (s.logIllegal pc word).itlb = s.itlb := rfl
@[simp] theorem State.logIllegal_dtlb (s : State) (pc : Word) (word : Word32) : (s.logIllegal pc word).dtlb = s.dtlb := rfl
@[simp] theorem State.logIllegal_icache (s : State) (pc : Word) (word : Word32) : (s.logIllegal pc word).icache = s.icache := rfl
@[simp] theorem State.logIllegal_dcache (s : State) (pc : Word) (word : Word32) : (s.logIllegal pc word).dcache = s.dcache := rfl
@[simp] theorem State.logIllegal_bp (s : State) (pc : Word) (word : Word32) : (s.logIllegal pc word).bp = s.bp := rfl
@[simp] theorem State.logIllegal_halt (s : State) (pc : Word) (word : Word32) : (s.logIllegal pc word).halt = s.halt := rfl
@[simp] theorem State.logIllegal_log (s : State) (pc : Word) (word : Word32) : (s.logIllegal pc word).log = s.log ++ [(pc, word)] := rfl
@[simp] theorem State.logIllegal_stored (s : State) (pc : Word) (word : Word32) : (s.logIllegal pc word).stored = s.stored := rfl
@[simp] theorem State.logIllegal_pmem (s : State) (pc : Word) (word : Word32) : (s.logIllegal pc word).pmem = s.pmem := rfl
@[simp] theorem State.logIllegal_ptbr (s : State) (pc : Word) (word : Word32) : (s.logIllegal pc word).ptbr = s.ptbr := rfl
@[simp] theorem State.logIllegal_params (s : State) (pc : Word) (word : Word32) : (s.logIllegal pc word).params = s.params := rfl
@[simp] theorem State.logIllegal_latency (s : State) (pc : Word) (word : Word32) : (s.logIllegal pc word).latency = s.latency := rfl
@[simp] theorem State.logIllegal_calls (s : State) (pc : Word) (word : Word32) : (s.logIllegal pc word).calls = s.calls := rfl
@[simp] theorem State.logIllegal_victims (s : State) (pc : Word) (word : Word32) : (s.logIllegal pc word).victims = s.victims := rfl
@[simp] theorem State.logIllegal_draws (s : State) (pc : Word) (word : Word32) : (s.logIllegal pc word).draws = s.draws := rfl

/-! ## `raiseHalt` -/

@[simp] theorem State.raiseHalt_regs (s : State) (reason : HaltReason) (pc va : Word) : (s.raiseHalt reason pc va).regs = s.regs := rfl
@[simp] theorem State.raiseHalt_pc (s : State) (reason : HaltReason) (pc va : Word) : (s.raiseHalt reason pc va).pc = s.pc := rfl
@[simp] theorem State.raiseHalt_d (s : State) (reason : HaltReason) (pc va : Word) : (s.raiseHalt reason pc va).d = s.d := rfl
@[simp] theorem State.raiseHalt_x (s : State) (reason : HaltReason) (pc va : Word) : (s.raiseHalt reason pc va).x = s.x := rfl
@[simp] theorem State.raiseHalt_m (s : State) (reason : HaltReason) (pc va : Word) : (s.raiseHalt reason pc va).m = s.m := rfl
@[simp] theorem State.raiseHalt_w (s : State) (reason : HaltReason) (pc va : Word) : (s.raiseHalt reason pc va).w = s.w := rfl
@[simp] theorem State.raiseHalt_fs (s : State) (reason : HaltReason) (pc va : Word) : (s.raiseHalt reason pc va).fs = s.fs := rfl
@[simp] theorem State.raiseHalt_ms (s : State) (reason : HaltReason) (pc va : Word) : (s.raiseHalt reason pc va).ms = s.ms := rfl
@[simp] theorem State.raiseHalt_itlb (s : State) (reason : HaltReason) (pc va : Word) : (s.raiseHalt reason pc va).itlb = s.itlb := rfl
@[simp] theorem State.raiseHalt_dtlb (s : State) (reason : HaltReason) (pc va : Word) : (s.raiseHalt reason pc va).dtlb = s.dtlb := rfl
@[simp] theorem State.raiseHalt_icache (s : State) (reason : HaltReason) (pc va : Word) : (s.raiseHalt reason pc va).icache = s.icache := rfl
@[simp] theorem State.raiseHalt_dcache (s : State) (reason : HaltReason) (pc va : Word) : (s.raiseHalt reason pc va).dcache = s.dcache := rfl
@[simp] theorem State.raiseHalt_bp (s : State) (reason : HaltReason) (pc va : Word) : (s.raiseHalt reason pc va).bp = s.bp := rfl
@[simp] theorem State.raiseHalt_halt (s : State) (reason : HaltReason) (pc va : Word) : (s.raiseHalt reason pc va).halt = .halted reason pc va := rfl
@[simp] theorem State.raiseHalt_log (s : State) (reason : HaltReason) (pc va : Word) : (s.raiseHalt reason pc va).log = s.log := rfl
@[simp] theorem State.raiseHalt_stored (s : State) (reason : HaltReason) (pc va : Word) : (s.raiseHalt reason pc va).stored = s.stored := rfl
@[simp] theorem State.raiseHalt_pmem (s : State) (reason : HaltReason) (pc va : Word) : (s.raiseHalt reason pc va).pmem = s.pmem := rfl
@[simp] theorem State.raiseHalt_ptbr (s : State) (reason : HaltReason) (pc va : Word) : (s.raiseHalt reason pc va).ptbr = s.ptbr := rfl
@[simp] theorem State.raiseHalt_params (s : State) (reason : HaltReason) (pc va : Word) : (s.raiseHalt reason pc va).params = s.params := rfl
@[simp] theorem State.raiseHalt_latency (s : State) (reason : HaltReason) (pc va : Word) : (s.raiseHalt reason pc va).latency = s.latency := rfl
@[simp] theorem State.raiseHalt_calls (s : State) (reason : HaltReason) (pc va : Word) : (s.raiseHalt reason pc va).calls = s.calls := rfl
@[simp] theorem State.raiseHalt_victims (s : State) (reason : HaltReason) (pc va : Word) : (s.raiseHalt reason pc va).victims = s.victims := rfl
@[simp] theorem State.raiseHalt_draws (s : State) (reason : HaltReason) (pc va : Word) : (s.raiseHalt reason pc va).draws = s.draws := rfl

/-! ## `setDLine` -/

@[simp] theorem State.setDLine_regs (s : State) (pa : PAddr) (way : Nat) (l : Line) : (s.setDLine pa way l).regs = s.regs := rfl
@[simp] theorem State.setDLine_pc (s : State) (pa : PAddr) (way : Nat) (l : Line) : (s.setDLine pa way l).pc = s.pc := rfl
@[simp] theorem State.setDLine_d (s : State) (pa : PAddr) (way : Nat) (l : Line) : (s.setDLine pa way l).d = s.d := rfl
@[simp] theorem State.setDLine_x (s : State) (pa : PAddr) (way : Nat) (l : Line) : (s.setDLine pa way l).x = s.x := rfl
@[simp] theorem State.setDLine_m (s : State) (pa : PAddr) (way : Nat) (l : Line) : (s.setDLine pa way l).m = s.m := rfl
@[simp] theorem State.setDLine_w (s : State) (pa : PAddr) (way : Nat) (l : Line) : (s.setDLine pa way l).w = s.w := rfl
@[simp] theorem State.setDLine_fs (s : State) (pa : PAddr) (way : Nat) (l : Line) : (s.setDLine pa way l).fs = s.fs := rfl
@[simp] theorem State.setDLine_ms (s : State) (pa : PAddr) (way : Nat) (l : Line) : (s.setDLine pa way l).ms = s.ms := rfl
@[simp] theorem State.setDLine_itlb (s : State) (pa : PAddr) (way : Nat) (l : Line) : (s.setDLine pa way l).itlb = s.itlb := rfl
@[simp] theorem State.setDLine_dtlb (s : State) (pa : PAddr) (way : Nat) (l : Line) : (s.setDLine pa way l).dtlb = s.dtlb := rfl
@[simp] theorem State.setDLine_icache (s : State) (pa : PAddr) (way : Nat) (l : Line) : (s.setDLine pa way l).icache = s.icache := rfl
@[simp] theorem State.setDLine_dcache (s : State) (pa : PAddr) (way : Nat) (l : Line) : (s.setDLine pa way l).dcache = s.dcache.setLine (s.dIndex pa) way l := rfl
@[simp] theorem State.setDLine_bp (s : State) (pa : PAddr) (way : Nat) (l : Line) : (s.setDLine pa way l).bp = s.bp := rfl
@[simp] theorem State.setDLine_halt (s : State) (pa : PAddr) (way : Nat) (l : Line) : (s.setDLine pa way l).halt = s.halt := rfl
@[simp] theorem State.setDLine_log (s : State) (pa : PAddr) (way : Nat) (l : Line) : (s.setDLine pa way l).log = s.log := rfl
@[simp] theorem State.setDLine_stored (s : State) (pa : PAddr) (way : Nat) (l : Line) : (s.setDLine pa way l).stored = s.stored := rfl
@[simp] theorem State.setDLine_pmem (s : State) (pa : PAddr) (way : Nat) (l : Line) : (s.setDLine pa way l).pmem = s.pmem := rfl
@[simp] theorem State.setDLine_ptbr (s : State) (pa : PAddr) (way : Nat) (l : Line) : (s.setDLine pa way l).ptbr = s.ptbr := rfl
@[simp] theorem State.setDLine_params (s : State) (pa : PAddr) (way : Nat) (l : Line) : (s.setDLine pa way l).params = s.params := rfl
@[simp] theorem State.setDLine_latency (s : State) (pa : PAddr) (way : Nat) (l : Line) : (s.setDLine pa way l).latency = s.latency := rfl
@[simp] theorem State.setDLine_calls (s : State) (pa : PAddr) (way : Nat) (l : Line) : (s.setDLine pa way l).calls = s.calls := rfl
@[simp] theorem State.setDLine_victims (s : State) (pa : PAddr) (way : Nat) (l : Line) : (s.setDLine pa way l).victims = s.victims := rfl
@[simp] theorem State.setDLine_draws (s : State) (pa : PAddr) (way : Nat) (l : Line) : (s.setDLine pa way l).draws = s.draws := rfl

/-! ## `setTlb` -/

@[simp] theorem State.setTlb_instr_regs (s : State) (t : Tlb) : (s.setTlb .instr t).regs = s.regs := rfl
@[simp] theorem State.setTlb_instr_pc (s : State) (t : Tlb) : (s.setTlb .instr t).pc = s.pc := rfl
@[simp] theorem State.setTlb_instr_d (s : State) (t : Tlb) : (s.setTlb .instr t).d = s.d := rfl
@[simp] theorem State.setTlb_instr_x (s : State) (t : Tlb) : (s.setTlb .instr t).x = s.x := rfl
@[simp] theorem State.setTlb_instr_m (s : State) (t : Tlb) : (s.setTlb .instr t).m = s.m := rfl
@[simp] theorem State.setTlb_instr_w (s : State) (t : Tlb) : (s.setTlb .instr t).w = s.w := rfl
@[simp] theorem State.setTlb_instr_fs (s : State) (t : Tlb) : (s.setTlb .instr t).fs = s.fs := rfl
@[simp] theorem State.setTlb_instr_ms (s : State) (t : Tlb) : (s.setTlb .instr t).ms = s.ms := rfl
@[simp] theorem State.setTlb_instr_itlb (s : State) (t : Tlb) : (s.setTlb .instr t).itlb = t := rfl
@[simp] theorem State.setTlb_instr_dtlb (s : State) (t : Tlb) : (s.setTlb .instr t).dtlb = s.dtlb := rfl
@[simp] theorem State.setTlb_instr_icache (s : State) (t : Tlb) : (s.setTlb .instr t).icache = s.icache := rfl
@[simp] theorem State.setTlb_instr_dcache (s : State) (t : Tlb) : (s.setTlb .instr t).dcache = s.dcache := rfl
@[simp] theorem State.setTlb_instr_bp (s : State) (t : Tlb) : (s.setTlb .instr t).bp = s.bp := rfl
@[simp] theorem State.setTlb_instr_halt (s : State) (t : Tlb) : (s.setTlb .instr t).halt = s.halt := rfl
@[simp] theorem State.setTlb_instr_log (s : State) (t : Tlb) : (s.setTlb .instr t).log = s.log := rfl
@[simp] theorem State.setTlb_instr_stored (s : State) (t : Tlb) : (s.setTlb .instr t).stored = s.stored := rfl
@[simp] theorem State.setTlb_instr_pmem (s : State) (t : Tlb) : (s.setTlb .instr t).pmem = s.pmem := rfl
@[simp] theorem State.setTlb_instr_ptbr (s : State) (t : Tlb) : (s.setTlb .instr t).ptbr = s.ptbr := rfl
@[simp] theorem State.setTlb_instr_params (s : State) (t : Tlb) : (s.setTlb .instr t).params = s.params := rfl
@[simp] theorem State.setTlb_instr_latency (s : State) (t : Tlb) : (s.setTlb .instr t).latency = s.latency := rfl
@[simp] theorem State.setTlb_instr_calls (s : State) (t : Tlb) : (s.setTlb .instr t).calls = s.calls := rfl
@[simp] theorem State.setTlb_instr_victims (s : State) (t : Tlb) : (s.setTlb .instr t).victims = s.victims := rfl
@[simp] theorem State.setTlb_instr_draws (s : State) (t : Tlb) : (s.setTlb .instr t).draws = s.draws := rfl
@[simp] theorem State.setTlb_data_regs (s : State) (t : Tlb) : (s.setTlb .data t).regs = s.regs := rfl
@[simp] theorem State.setTlb_data_pc (s : State) (t : Tlb) : (s.setTlb .data t).pc = s.pc := rfl
@[simp] theorem State.setTlb_data_d (s : State) (t : Tlb) : (s.setTlb .data t).d = s.d := rfl
@[simp] theorem State.setTlb_data_x (s : State) (t : Tlb) : (s.setTlb .data t).x = s.x := rfl
@[simp] theorem State.setTlb_data_m (s : State) (t : Tlb) : (s.setTlb .data t).m = s.m := rfl
@[simp] theorem State.setTlb_data_w (s : State) (t : Tlb) : (s.setTlb .data t).w = s.w := rfl
@[simp] theorem State.setTlb_data_fs (s : State) (t : Tlb) : (s.setTlb .data t).fs = s.fs := rfl
@[simp] theorem State.setTlb_data_ms (s : State) (t : Tlb) : (s.setTlb .data t).ms = s.ms := rfl
@[simp] theorem State.setTlb_data_itlb (s : State) (t : Tlb) : (s.setTlb .data t).itlb = s.itlb := rfl
@[simp] theorem State.setTlb_data_dtlb (s : State) (t : Tlb) : (s.setTlb .data t).dtlb = t := rfl
@[simp] theorem State.setTlb_data_icache (s : State) (t : Tlb) : (s.setTlb .data t).icache = s.icache := rfl
@[simp] theorem State.setTlb_data_dcache (s : State) (t : Tlb) : (s.setTlb .data t).dcache = s.dcache := rfl
@[simp] theorem State.setTlb_data_bp (s : State) (t : Tlb) : (s.setTlb .data t).bp = s.bp := rfl
@[simp] theorem State.setTlb_data_halt (s : State) (t : Tlb) : (s.setTlb .data t).halt = s.halt := rfl
@[simp] theorem State.setTlb_data_log (s : State) (t : Tlb) : (s.setTlb .data t).log = s.log := rfl
@[simp] theorem State.setTlb_data_stored (s : State) (t : Tlb) : (s.setTlb .data t).stored = s.stored := rfl
@[simp] theorem State.setTlb_data_pmem (s : State) (t : Tlb) : (s.setTlb .data t).pmem = s.pmem := rfl
@[simp] theorem State.setTlb_data_ptbr (s : State) (t : Tlb) : (s.setTlb .data t).ptbr = s.ptbr := rfl
@[simp] theorem State.setTlb_data_params (s : State) (t : Tlb) : (s.setTlb .data t).params = s.params := rfl
@[simp] theorem State.setTlb_data_latency (s : State) (t : Tlb) : (s.setTlb .data t).latency = s.latency := rfl
@[simp] theorem State.setTlb_data_calls (s : State) (t : Tlb) : (s.setTlb .data t).calls = s.calls := rfl
@[simp] theorem State.setTlb_data_victims (s : State) (t : Tlb) : (s.setTlb .data t).victims = s.victims := rfl
@[simp] theorem State.setTlb_data_draws (s : State) (t : Tlb) : (s.setTlb .data t).draws = s.draws := rfl

/-- The TLB of a side after its replacement. -/
@[simp] theorem State.tlb_setTlb (s : State) (side : Side) (t : Tlb) : (s.setTlb side t).tlb side = t := by
  cases side <;> rfl

@[simp] theorem State.setTlb_regs (s : State) (side : Side) (t : Tlb) : (s.setTlb side t).regs = s.regs := by
  cases side <;> rfl
@[simp] theorem State.setTlb_pc (s : State) (side : Side) (t : Tlb) : (s.setTlb side t).pc = s.pc := by
  cases side <;> rfl
@[simp] theorem State.setTlb_d (s : State) (side : Side) (t : Tlb) : (s.setTlb side t).d = s.d := by
  cases side <;> rfl
@[simp] theorem State.setTlb_x (s : State) (side : Side) (t : Tlb) : (s.setTlb side t).x = s.x := by
  cases side <;> rfl
@[simp] theorem State.setTlb_m (s : State) (side : Side) (t : Tlb) : (s.setTlb side t).m = s.m := by
  cases side <;> rfl
@[simp] theorem State.setTlb_w (s : State) (side : Side) (t : Tlb) : (s.setTlb side t).w = s.w := by
  cases side <;> rfl
@[simp] theorem State.setTlb_fs (s : State) (side : Side) (t : Tlb) : (s.setTlb side t).fs = s.fs := by
  cases side <;> rfl
@[simp] theorem State.setTlb_ms (s : State) (side : Side) (t : Tlb) : (s.setTlb side t).ms = s.ms := by
  cases side <;> rfl
@[simp] theorem State.setTlb_icache (s : State) (side : Side) (t : Tlb) : (s.setTlb side t).icache = s.icache := by
  cases side <;> rfl
@[simp] theorem State.setTlb_dcache (s : State) (side : Side) (t : Tlb) : (s.setTlb side t).dcache = s.dcache := by
  cases side <;> rfl
@[simp] theorem State.setTlb_bp (s : State) (side : Side) (t : Tlb) : (s.setTlb side t).bp = s.bp := by
  cases side <;> rfl
@[simp] theorem State.setTlb_halt (s : State) (side : Side) (t : Tlb) : (s.setTlb side t).halt = s.halt := by
  cases side <;> rfl
@[simp] theorem State.setTlb_log (s : State) (side : Side) (t : Tlb) : (s.setTlb side t).log = s.log := by
  cases side <;> rfl
@[simp] theorem State.setTlb_stored (s : State) (side : Side) (t : Tlb) : (s.setTlb side t).stored = s.stored := by
  cases side <;> rfl
@[simp] theorem State.setTlb_pmem (s : State) (side : Side) (t : Tlb) : (s.setTlb side t).pmem = s.pmem := by
  cases side <;> rfl
@[simp] theorem State.setTlb_ptbr (s : State) (side : Side) (t : Tlb) : (s.setTlb side t).ptbr = s.ptbr := by
  cases side <;> rfl
@[simp] theorem State.setTlb_params (s : State) (side : Side) (t : Tlb) : (s.setTlb side t).params = s.params := by
  cases side <;> rfl
@[simp] theorem State.setTlb_latency (s : State) (side : Side) (t : Tlb) : (s.setTlb side t).latency = s.latency := by
  cases side <;> rfl
@[simp] theorem State.setTlb_calls (s : State) (side : Side) (t : Tlb) : (s.setTlb side t).calls = s.calls := by
  cases side <;> rfl
@[simp] theorem State.setTlb_victims (s : State) (side : Side) (t : Tlb) : (s.setTlb side t).victims = s.victims := by
  cases side <;> rfl
@[simp] theorem State.setTlb_draws (s : State) (side : Side) (t : Tlb) : (s.setTlb side t).draws = s.draws := by
  cases side <;> rfl

/-! ## Updates behind a test: `writeReg`, `writeback`, `redirect` and `finish` -/

@[simp] theorem State.writeReg_pc (s : State) (r : Reg) (v : Word) : (s.writeReg r v).pc = s.pc := by
  unfold State.writeReg; split <;> rfl
@[simp] theorem State.writeback_pc (s : State) : s.writeback.pc = s.pc := by
  unfold State.writeback; split <;> simp
@[simp] theorem State.writeReg_d (s : State) (r : Reg) (v : Word) : (s.writeReg r v).d = s.d := by
  unfold State.writeReg; split <;> rfl
@[simp] theorem State.writeback_d (s : State) : s.writeback.d = s.d := by
  unfold State.writeback; split <;> simp
@[simp] theorem State.writeReg_x (s : State) (r : Reg) (v : Word) : (s.writeReg r v).x = s.x := by
  unfold State.writeReg; split <;> rfl
@[simp] theorem State.writeback_x (s : State) : s.writeback.x = s.x := by
  unfold State.writeback; split <;> simp
@[simp] theorem State.writeReg_m (s : State) (r : Reg) (v : Word) : (s.writeReg r v).m = s.m := by
  unfold State.writeReg; split <;> rfl
@[simp] theorem State.writeback_m (s : State) : s.writeback.m = s.m := by
  unfold State.writeback; split <;> simp
@[simp] theorem State.writeReg_w (s : State) (r : Reg) (v : Word) : (s.writeReg r v).w = s.w := by
  unfold State.writeReg; split <;> rfl
@[simp] theorem State.writeback_w (s : State) : s.writeback.w = s.w := by
  unfold State.writeback; split <;> simp
@[simp] theorem State.writeReg_fs (s : State) (r : Reg) (v : Word) : (s.writeReg r v).fs = s.fs := by
  unfold State.writeReg; split <;> rfl
@[simp] theorem State.writeback_fs (s : State) : s.writeback.fs = s.fs := by
  unfold State.writeback; split <;> simp
@[simp] theorem State.writeReg_ms (s : State) (r : Reg) (v : Word) : (s.writeReg r v).ms = s.ms := by
  unfold State.writeReg; split <;> rfl
@[simp] theorem State.writeback_ms (s : State) : s.writeback.ms = s.ms := by
  unfold State.writeback; split <;> simp
@[simp] theorem State.writeReg_itlb (s : State) (r : Reg) (v : Word) : (s.writeReg r v).itlb = s.itlb := by
  unfold State.writeReg; split <;> rfl
@[simp] theorem State.writeback_itlb (s : State) : s.writeback.itlb = s.itlb := by
  unfold State.writeback; split <;> simp
@[simp] theorem State.writeReg_dtlb (s : State) (r : Reg) (v : Word) : (s.writeReg r v).dtlb = s.dtlb := by
  unfold State.writeReg; split <;> rfl
@[simp] theorem State.writeback_dtlb (s : State) : s.writeback.dtlb = s.dtlb := by
  unfold State.writeback; split <;> simp
@[simp] theorem State.writeReg_icache (s : State) (r : Reg) (v : Word) : (s.writeReg r v).icache = s.icache := by
  unfold State.writeReg; split <;> rfl
@[simp] theorem State.writeback_icache (s : State) : s.writeback.icache = s.icache := by
  unfold State.writeback; split <;> simp
@[simp] theorem State.writeReg_dcache (s : State) (r : Reg) (v : Word) : (s.writeReg r v).dcache = s.dcache := by
  unfold State.writeReg; split <;> rfl
@[simp] theorem State.writeback_dcache (s : State) : s.writeback.dcache = s.dcache := by
  unfold State.writeback; split <;> simp
@[simp] theorem State.writeReg_bp (s : State) (r : Reg) (v : Word) : (s.writeReg r v).bp = s.bp := by
  unfold State.writeReg; split <;> rfl
@[simp] theorem State.writeback_bp (s : State) : s.writeback.bp = s.bp := by
  unfold State.writeback; split <;> simp
@[simp] theorem State.writeReg_halt (s : State) (r : Reg) (v : Word) : (s.writeReg r v).halt = s.halt := by
  unfold State.writeReg; split <;> rfl
@[simp] theorem State.writeback_halt (s : State) : s.writeback.halt = s.halt := by
  unfold State.writeback; split <;> simp
@[simp] theorem State.writeReg_log (s : State) (r : Reg) (v : Word) : (s.writeReg r v).log = s.log := by
  unfold State.writeReg; split <;> rfl
@[simp] theorem State.writeback_log (s : State) : s.writeback.log = s.log := by
  unfold State.writeback; split <;> simp
@[simp] theorem State.writeReg_stored (s : State) (r : Reg) (v : Word) : (s.writeReg r v).stored = s.stored := by
  unfold State.writeReg; split <;> rfl
@[simp] theorem State.writeback_stored (s : State) : s.writeback.stored = s.stored := by
  unfold State.writeback; split <;> simp
@[simp] theorem State.writeReg_pmem (s : State) (r : Reg) (v : Word) : (s.writeReg r v).pmem = s.pmem := by
  unfold State.writeReg; split <;> rfl
@[simp] theorem State.writeback_pmem (s : State) : s.writeback.pmem = s.pmem := by
  unfold State.writeback; split <;> simp
@[simp] theorem State.writeReg_ptbr (s : State) (r : Reg) (v : Word) : (s.writeReg r v).ptbr = s.ptbr := by
  unfold State.writeReg; split <;> rfl
@[simp] theorem State.writeback_ptbr (s : State) : s.writeback.ptbr = s.ptbr := by
  unfold State.writeback; split <;> simp
@[simp] theorem State.writeReg_params (s : State) (r : Reg) (v : Word) : (s.writeReg r v).params = s.params := by
  unfold State.writeReg; split <;> rfl
@[simp] theorem State.writeback_params (s : State) : s.writeback.params = s.params := by
  unfold State.writeback; split <;> simp
@[simp] theorem State.writeReg_latency (s : State) (r : Reg) (v : Word) : (s.writeReg r v).latency = s.latency := by
  unfold State.writeReg; split <;> rfl
@[simp] theorem State.writeback_latency (s : State) : s.writeback.latency = s.latency := by
  unfold State.writeback; split <;> simp
@[simp] theorem State.writeReg_calls (s : State) (r : Reg) (v : Word) : (s.writeReg r v).calls = s.calls := by
  unfold State.writeReg; split <;> rfl
@[simp] theorem State.writeback_calls (s : State) : s.writeback.calls = s.calls := by
  unfold State.writeback; split <;> simp
@[simp] theorem State.writeReg_victims (s : State) (r : Reg) (v : Word) : (s.writeReg r v).victims = s.victims := by
  unfold State.writeReg; split <;> rfl
@[simp] theorem State.writeback_victims (s : State) : s.writeback.victims = s.victims := by
  unfold State.writeback; split <;> simp
@[simp] theorem State.writeReg_draws (s : State) (r : Reg) (v : Word) : (s.writeReg r v).draws = s.draws := by
  unfold State.writeReg; split <;> rfl
@[simp] theorem State.writeback_draws (s : State) : s.writeback.draws = s.draws := by
  unfold State.writeback; split <;> simp
@[simp] theorem State.redirect_regs (s : State) (v : XInstr) (n : Word) : (s.redirect v n).regs = s.regs := by
  unfold State.redirect; split <;> rfl
@[simp] theorem State.finish_regs (s : State) (v : XInstr) (m' : MLatch) (n : Word) : (s.finish v m' n).regs = s.regs := by
  simp [State.finish]
@[simp] theorem State.redirect_x (s : State) (v : XInstr) (n : Word) : (s.redirect v n).x = s.x := by
  unfold State.redirect; split <;> rfl
@[simp] theorem State.finish_x (s : State) (v : XInstr) (m' : MLatch) (n : Word) : (s.finish v m' n).x = s.x := by
  simp [State.finish]
@[simp] theorem State.redirect_m (s : State) (v : XInstr) (n : Word) : (s.redirect v n).m = s.m := by
  unfold State.redirect; split <;> rfl
@[simp] theorem State.finish_m (s : State) (v : XInstr) (m' : MLatch) (n : Word) : (s.finish v m' n).m = m' := by
  simp [State.finish]
@[simp] theorem State.redirect_w (s : State) (v : XInstr) (n : Word) : (s.redirect v n).w = s.w := by
  unfold State.redirect; split <;> rfl
@[simp] theorem State.finish_w (s : State) (v : XInstr) (m' : MLatch) (n : Word) : (s.finish v m' n).w = s.w := by
  simp [State.finish]
@[simp] theorem State.redirect_ms (s : State) (v : XInstr) (n : Word) : (s.redirect v n).ms = s.ms := by
  unfold State.redirect; split <;> rfl
@[simp] theorem State.finish_ms (s : State) (v : XInstr) (m' : MLatch) (n : Word) : (s.finish v m' n).ms = s.ms := by
  simp [State.finish]
@[simp] theorem State.redirect_itlb (s : State) (v : XInstr) (n : Word) : (s.redirect v n).itlb = s.itlb := by
  unfold State.redirect; split <;> rfl
@[simp] theorem State.finish_itlb (s : State) (v : XInstr) (m' : MLatch) (n : Word) : (s.finish v m' n).itlb = s.itlb := by
  simp [State.finish]
@[simp] theorem State.redirect_dtlb (s : State) (v : XInstr) (n : Word) : (s.redirect v n).dtlb = s.dtlb := by
  unfold State.redirect; split <;> rfl
@[simp] theorem State.finish_dtlb (s : State) (v : XInstr) (m' : MLatch) (n : Word) : (s.finish v m' n).dtlb = s.dtlb := by
  simp [State.finish]
@[simp] theorem State.redirect_icache (s : State) (v : XInstr) (n : Word) : (s.redirect v n).icache = s.icache := by
  unfold State.redirect; split <;> rfl
@[simp] theorem State.finish_icache (s : State) (v : XInstr) (m' : MLatch) (n : Word) : (s.finish v m' n).icache = s.icache := by
  simp [State.finish]
@[simp] theorem State.redirect_dcache (s : State) (v : XInstr) (n : Word) : (s.redirect v n).dcache = s.dcache := by
  unfold State.redirect; split <;> rfl
@[simp] theorem State.finish_dcache (s : State) (v : XInstr) (m' : MLatch) (n : Word) : (s.finish v m' n).dcache = s.dcache := by
  simp [State.finish]
@[simp] theorem State.redirect_bp (s : State) (v : XInstr) (n : Word) : (s.redirect v n).bp = s.bp := by
  unfold State.redirect; split <;> rfl
@[simp] theorem State.finish_bp (s : State) (v : XInstr) (m' : MLatch) (n : Word) : (s.finish v m' n).bp = s.bp := by
  simp [State.finish]
@[simp] theorem State.redirect_halt (s : State) (v : XInstr) (n : Word) : (s.redirect v n).halt = s.halt := by
  unfold State.redirect; split <;> rfl
@[simp] theorem State.finish_halt (s : State) (v : XInstr) (m' : MLatch) (n : Word) : (s.finish v m' n).halt = s.halt := by
  simp [State.finish]
@[simp] theorem State.redirect_log (s : State) (v : XInstr) (n : Word) : (s.redirect v n).log = s.log := by
  unfold State.redirect; split <;> rfl
@[simp] theorem State.finish_log (s : State) (v : XInstr) (m' : MLatch) (n : Word) : (s.finish v m' n).log = s.log := by
  simp [State.finish]
@[simp] theorem State.redirect_stored (s : State) (v : XInstr) (n : Word) : (s.redirect v n).stored = s.stored := by
  unfold State.redirect; split <;> rfl
@[simp] theorem State.finish_stored (s : State) (v : XInstr) (m' : MLatch) (n : Word) : (s.finish v m' n).stored = s.stored := by
  simp [State.finish]
@[simp] theorem State.redirect_pmem (s : State) (v : XInstr) (n : Word) : (s.redirect v n).pmem = s.pmem := by
  unfold State.redirect; split <;> rfl
@[simp] theorem State.finish_pmem (s : State) (v : XInstr) (m' : MLatch) (n : Word) : (s.finish v m' n).pmem = s.pmem := by
  simp [State.finish]
@[simp] theorem State.redirect_ptbr (s : State) (v : XInstr) (n : Word) : (s.redirect v n).ptbr = s.ptbr := by
  unfold State.redirect; split <;> rfl
@[simp] theorem State.finish_ptbr (s : State) (v : XInstr) (m' : MLatch) (n : Word) : (s.finish v m' n).ptbr = s.ptbr := by
  simp [State.finish]
@[simp] theorem State.redirect_params (s : State) (v : XInstr) (n : Word) : (s.redirect v n).params = s.params := by
  unfold State.redirect; split <;> rfl
@[simp] theorem State.finish_params (s : State) (v : XInstr) (m' : MLatch) (n : Word) : (s.finish v m' n).params = s.params := by
  simp [State.finish]
@[simp] theorem State.redirect_latency (s : State) (v : XInstr) (n : Word) : (s.redirect v n).latency = s.latency := by
  unfold State.redirect; split <;> rfl
@[simp] theorem State.finish_latency (s : State) (v : XInstr) (m' : MLatch) (n : Word) : (s.finish v m' n).latency = s.latency := by
  simp [State.finish]
@[simp] theorem State.redirect_calls (s : State) (v : XInstr) (n : Word) : (s.redirect v n).calls = s.calls := by
  unfold State.redirect; split <;> rfl
@[simp] theorem State.finish_calls (s : State) (v : XInstr) (m' : MLatch) (n : Word) : (s.finish v m' n).calls = s.calls := by
  simp [State.finish]
@[simp] theorem State.redirect_victims (s : State) (v : XInstr) (n : Word) : (s.redirect v n).victims = s.victims := by
  unfold State.redirect; split <;> rfl
@[simp] theorem State.finish_victims (s : State) (v : XInstr) (m' : MLatch) (n : Word) : (s.finish v m' n).victims = s.victims := by
  simp [State.finish]
@[simp] theorem State.redirect_draws (s : State) (v : XInstr) (n : Word) : (s.redirect v n).draws = s.draws := by
  unfold State.redirect; split <;> rfl
@[simp] theorem State.finish_draws (s : State) (v : XInstr) (m' : MLatch) (n : Word) : (s.finish v m' n).draws = s.draws := by
  simp [State.finish]

/-- The registers after a register write (R21). -/
theorem State.writeReg_regs (s : State) (r : Reg) (v : Word) :
    (s.writeReg r v).regs = if s.params.x0Hardwired && r == 0#5 then s.regs else s.regs.set r.toNat v := by
  unfold State.writeReg; split <;> rfl

/-- A register reads back what was written to it, but for a hard-wired `x0` (R21). -/
theorem State.readReg_writeReg (s : State) (r q : Reg) (v : Word) :
    (s.writeReg r v).readReg q =
      if q = r then (if s.params.x0Hardwired && r == 0#5 then 0#64 else v) else s.readReg q := by
  unfold State.readReg
  rw [State.writeReg_params, State.writeReg_regs]
  by_cases hz : (s.params.x0Hardwired && r == 0#5) = true
  · simp only [hz, if_true]
    by_cases hq : q = r
    · subst hq; simp [hz]
    · simp [hq]
  · simp only [hz]
    by_cases hq : q = r
    · subst hq; simp [hz]
    · have hn : r.toNat ≠ q.toNat := fun h => hq (BitVec.eq_of_toNat_eq h.symm)
      simp [hq, Vector.getElem_set_ne, hn]

/-- When the prediction was right nothing is redirected (R372). -/
theorem State.redirect_of_eq {s : State} {v : XInstr} {n : Word} (h : n = v.predPc) : s.redirect v n = s := by
  simp [State.redirect, h]

/-- When the prediction was wrong the PC is corrected and the instruction in `D` is killed (R372, R374). -/
theorem State.redirect_of_ne {s : State} {v : XInstr} {n : Word} (h : n ≠ v.predPc) :
    s.redirect v n = { s with pc := n, fs := .fresh, d := .bubble } := by
  simp [State.redirect, h]

end Sys2Proof.Machine
end

