-- ==== Sys2Proof/Laws/Exec.lean ====
section
/-! SUPPORT. What the templates of the meanings do (70_reset_and_hazards.md R370 to R377), in the terms of Safety: with an
instruction in latch `X` each one is a single equation, and without one each passes the bubble or the token on. -/

namespace Sys2Proof.Machine

/-- The end of a meaning is the state `executed` names. -/
theorem State.finish_eq_executed (s : State) (v : XInstr) (m' : MLatch) (nextPc : Word) :
    s.finish v m' nextPc = s.executed v m' nextPc := rfl

/-- A meaning runs on the instruction in `X`. -/
theorem onInstr_instr {s : State} {v : XInstr} (h : s.x = .instr v) (f : XInstr → State) :
    onInstr s f = .next (f v) := by
  rw [onInstr, h]

/-- A bubble in `X` gives a bubble in `M` (R371). -/
theorem onInstr_bubble {s : State} (h : s.x = .bubble) (f : XInstr → State) :
    onInstr s f = .next { s with m := .bubble } := by
  rw [onInstr, h]

/-- A fault token passes to `M` (R377). -/
theorem onInstr_token {s : State} {pc : Word} {fault : FaultInfo} (h : s.x = .token pc fault) (f : XInstr → State) :
    onInstr s f = .next { s with m := .token pc fault } := by
  rw [onInstr, h]

/-- The template of R150 and R200. -/
theorem execResult_instr {s : State} {v : XInstr} (h : s.x = .instr v) (rd : Reg) (result : XInstr → Word) :
    execResult rd result s = s.withResult v rd (result v) := onInstr_instr h _

/-- The template of R279. -/
theorem execNoOp_instr {s : State} {v : XInstr} (h : s.x = .instr v) :
    execNoOp s = .next (s.executed v (.noEffect v.pc) (v.pc + 4#64)) := onInstr_instr h _

/-- The template of the branches (R231 to R236). -/
theorem execBranch_instr {s : State} {v : XInstr} (h : s.x = .instr v) (cond : Word → Word → Bool)
    (offset : BitVec 13) :
    execBranch cond offset s =
      s.withTransfer v (.noEffect v.pc) (if cond v.a v.b then v.pc + sext13 offset else v.pc + 4#64)
        (v.pc + sext13 offset) := onInstr_instr h _

/-- The template of the jumps (R237, R238). -/
theorem execJump_instr {s : State} {v : XInstr} (h : s.x = .instr v) (rd : Reg) (target : XInstr → Word) :
    execJump rd target s = s.withTransfer v (.reg v.pc (some rd) (v.pc + 4#64)) (target v) (target v) :=
  onInstr_instr h _

/-- The template of the loads (R262). -/
theorem execLoad_instr {s : State} {v : XInstr} (h : s.x = .instr v) (rd : Reg) (imm : BitVec 12) (size : AccessSize)
    (signed : Bool) :
    execLoad rd imm size signed s =
      .next (s.executed v (.load v.pc (some rd) (effectiveAddress v.a imm) size signed) (v.pc + 4#64)) :=
  onInstr_instr h _

/-- The template of the stores (R263). -/
theorem execStore_instr {s : State} {v : XInstr} (h : s.x = .instr v) (imm : BitVec 12) (size : AccessSize) :
    execStore imm size s =
      .next (s.executed v (.store v.pc (effectiveAddress v.a imm) size v.b) (v.pc + 4#64)) := onInstr_instr h _

/-! ## Everything `executed` can do -/

/-- A right prediction changes latch `M` only; a wrong one also corrects the PC, makes the fetch fresh and kills the
instruction in `D` (R372, R374). -/
theorem State.executed_cases (s : State) (v : XInstr) (m' : MLatch) (nextPc : Word) :
    (nextPc = v.predPc ∧ s.executed v m' nextPc = { s with m := m' }) ∨
      (nextPc ≠ v.predPc ∧ s.executed v m' nextPc = { s with m := m', pc := nextPc, fs := .fresh, d := .bubble }) := by
  by_cases h : nextPc = v.predPc
  · exact .inl ⟨h, by rw [State.executed, if_pos h]⟩
  · exact .inr ⟨h, by rw [State.executed, if_neg h]⟩

/-- Latch `M` after execution. -/
theorem State.executed_m (s : State) (v : XInstr) (m' : MLatch) (nextPc : Word) : (s.executed v m' nextPc).m = m' := by
  obtain ⟨_, h⟩ | ⟨_, h⟩ := s.executed_cases v m' nextPc <;> rw [h]

/-- A register-writing template answers a next state that writes the result into `M`. -/
theorem State.withResult_m (s : State) (v : XInstr) (rd : Reg) (result : Word) :
    ∃ t, s.withResult v rd result = .next t ∧ t.m = .reg v.pc (some rd) result :=
  ⟨_, rfl, s.executed_m _ _ _⟩

end Sys2Proof.Machine
end

