-- ==== Sys2Proof/Laws/Ops.lean ====
section
/-! SUPPORT. Once for each shared operation below a stage, everything it can do: the draws of the two oracles, the calls on
the backing store (20_memory.md R61, R71), the victim choice (R98) and a cycle of translation (R90). -/

namespace Sys2Proof.Machine

/-! ## Draws -/

/-- A draw of `MemLatency` changes only the answers left and the count of calls (R62). -/
theorem State.drawLatency_eq (s : State) (kind : CallKind) (address : Nat) :
    ∃ latency, (s.drawLatency kind address).2 = { s with latency := latency, calls := s.calls + 1 } ∧
      (∀ b rest, s.latency = b :: rest → (s.drawLatency kind address).1 = b ∧ latency = rest) := by
  unfold State.drawLatency
  split
  · rename_i b rest h
    exact ⟨rest, rfl, fun b' rest' h' => by cases h.symm.trans h'; exact ⟨rfl, rfl⟩⟩
  · rename_i h
    exact ⟨s.latency, rfl, fun b rest h' => by cases h.symm.trans h'⟩

/-- A draw of `VictimTie` changes only the draws left and their count (R98). -/
theorem State.drawVictim_eq (s : State) :
    ∃ victims, s.drawVictim.2 = { s with victims := victims, draws := s.draws + 1 } := by
  unfold State.drawVictim
  split
  · exact ⟨_, rfl⟩
  · exact ⟨_, rfl⟩

/-! ## Calls -/

/-- Everything a read call can do (R61, R71): stop, go on pending, or complete with the bytes of the backing store at the
start of the cycle. -/
theorem physRead_cases (s : State) (mem : Memory) (issued : Bool) (pa n : Nat) :
    (s.params.pmemSize < pa + n ∧ physRead s mem issued pa n = .stop (.outsideMemory pa)) ∨
      (pa + n ≤ s.params.pmemSize ∧ ∃ latency,
        let s' : State := { s with latency := latency, calls := s.calls + 1 }
        physRead s mem issued pa n = .pending s' ∨ physRead s mem issued pa n = .done s' (mem.readBytes pa n)) := by
  by_cases h : s.params.pmemSize < pa + n
  · exact .inl ⟨h, by rw [physRead, if_pos h]⟩
  · refine .inr ⟨by omega, ?_⟩
    obtain ⟨latency, hs, -⟩ := s.drawLatency_eq (if issued then .status else .read) pa
    refine ⟨latency, ?_⟩
    rw [physRead, if_neg h, ← hs]
    generalize s.drawLatency _ pa = d
    obtain ⟨_ | _, t⟩ := d
    · exact .inl rfl
    · exact .inr rfl

/-- A read call whose answer the harness has fixed (R62). -/
theorem physRead_fixed {s : State} {b : Bool} {rest : List Bool} (hl : s.latency = b :: rest) {pa n : Nat}
    (h : pa + n ≤ s.params.pmemSize) (mem : Memory) (issued : Bool) :
    physRead s mem issued pa n =
      if b then .done { s with latency := rest, calls := s.calls + 1 } (mem.readBytes pa n)
      else .pending { s with latency := rest, calls := s.calls + 1 } := by
  rw [physRead, if_neg (by omega), State.drawLatency, hl]
  cases b <;> rfl

/-- Everything a write call can do (R61, R71): the bytes are stored in the cycle the call completes. -/
theorem physWrite_cases (s : State) (issued : Bool) (pa : Nat) (bytes : List (Option Byte)) :
    (s.params.pmemSize < pa + bytes.length ∧ physWrite s issued pa bytes = .stop (.outsideMemory pa)) ∨
      (pa + bytes.length ≤ s.params.pmemSize ∧ ∃ latency,
        let s' : State := { s with latency := latency, calls := s.calls + 1 }
        physWrite s issued pa bytes = .pending s' ∨
          physWrite s issued pa bytes = .done { s' with pmem := s.pmem.writeBytes pa bytes } []) := by
  by_cases h : s.params.pmemSize < pa + bytes.length
  · exact .inl ⟨h, by rw [physWrite, if_pos h]⟩
  · refine .inr ⟨by omega, ?_⟩
    obtain ⟨latency, hs, -⟩ := s.drawLatency_eq (if issued then .status else .write) pa
    refine ⟨latency, ?_⟩
    rw [physWrite, if_neg h, ← hs]
    have hp : (s.drawLatency (if issued then .status else .write) pa).2.pmem = s.pmem := by rw [hs]
    revert hp
    generalize s.drawLatency _ pa = d
    obtain ⟨_ | _, t⟩ := d
    · exact fun _ => .inl rfl
    · exact fun hp => .inr (by rw [← hp])

/-! ## The victim -/

/-- The pick is one of the candidates, and changes at most the draws (R98). -/
theorem pickVictim_cases (s : State) (candidates : List Nat) (h : candidates ≠ []) :
    (pickVictim s candidates).1 ∈ candidates ∧
      ((pickVictim s candidates).2 = s ∨
        ∃ victims, (pickVictim s candidates).2 = { s with victims := victims, draws := s.draws + 1 }) := by
  match candidates, h with
  | [w], _ => exact ⟨List.mem_singleton_self w, .inl rfl⟩
  | a :: b :: rest, _ =>
    refine ⟨?_, .inr s.drawVictim_eq⟩
    show (a :: b :: rest).getD (s.drawVictim.1 % (a :: b :: rest).length) 0 ∈ a :: b :: rest
    rw [List.getD_eq_getElem _ _ (Nat.mod_lt _ (by simp))]
    exact List.getElem_mem _

/-- Every candidate is a way of the set (R98). -/
theorem mem_victimCandidates {writeBack : Bool} {ways : List Line} {w : Nat}
    (h : w ∈ victimCandidates writeBack ways) : w < ways.length := by
  unfold victimCandidates at h
  simp only at h
  split at h
  · exact List.mem_range.mp (List.mem_of_mem_filter h)
  · split at h
    · exact List.mem_range.mp (List.mem_of_mem_filter h)
    · exact List.mem_range.mp h

/-! ## Translation -/

/-- The slot an address selects is its superpage's own slot, so the mismatch of R88 cannot occur (R80, R81). -/
theorem vpnSlot_eq_spSlot (va : Word) : vpnSlot va = spSlot (superpage va) := by
  refine BitVec.eq_of_getLsbD_eq fun i hi => ?_
  have h1 : 2 + i < 20 := by omega
  have h2 : i < 18 := by omega
  simp only [vpnSlot, vpn, spSlot, superpage, BitVec.getLsbD_extractLsb', hi, h1, decide_true, Bool.true_and,
    Nat.zero_add, h2]
  congr 1
  omega

/-- Does the TLB of a side hold the superpage of an address (R82)? -/
def State.tlbHits (s : State) (side : Side) (va : Word) : Prop :=
  ((s.tlb side).slotFor va).valid = true ∧ ((s.tlb side).slotFor va).tag = superpage va

/-- A hit makes no call, whatever walk is in progress (R82). -/
theorem translate_hit {side : Side} {va : Word} {s : State} (h : s.tlbHits side va) (mem : Memory) (spent : Bool)
    (walk : Option (WalkStep × Bool)) :
    translate side mem spent walk va s = .hit (((s.tlb side).slotFor va).ppn ++ superpageOffset va) := by
  rw [translate]
  simp [h.1, h.2]

/-- Everything a miss can do in a cycle (R83 to R87, R91): wait for a spent call, stop, wait for its own call, or read the
entry, which faults, leads to the second step, or installs the slot. -/
theorem translate_miss (side : Side) (mem : Memory) (spent : Bool) (walk : Option (WalkStep × Bool)) (va : Word)
    (s : State) (h : ¬s.tlbHits side va) :
    let step := (walk.getD (.first, false)).1
    let issued := (walk.getD (.first, false)).2
    let addr := (walkAddress s side step va).toNat
    let e := pteOf addr (mem.readBytes addr 4)
    translate side mem spent walk va s = .retry s step issued ∨
      translate side mem spent walk va s = .stop (.refuse (.storedByte addr)) ∨
      translate side mem spent walk va s = .stop (.fault (.outsideMemory addr)) ∨
      (storedTouches s.stored addr 4 = false ∧ addr + 4 ≤ s.params.pmemSize ∧ ∃ latency,
        let s' : State := { s with latency := latency, calls := s.calls + 1 }
        translate side mem spent walk va s = .retry s' step true ∨
          (pteValid e = false ∧ translate side mem spent walk va s = .pageFault s') ∨
          (pteValid e = true ∧ step = .first ∧
            translate side mem spent walk va s =
              .retry (s'.setTlb side ((s'.tlb side).setL2a (level2Address e (superpage va)))) .second false) ∨
          (pteValid e = true ∧ step = .second ∧
            translate side mem spent walk va s =
              .done
                (s'.setTlb side
                  ((s'.tlb side).install (vpnSlot va) { valid := true, tag := superpage va, ppn := pteNumber e }))
                (pteNumber e ++ superpageOffset va))) := by
  intro step issued addr e
  have hm : (((s.tlb side).slotFor va).valid && ((s.tlb side).slotFor va).tag == superpage va) = false := by
    cases hv : ((s.tlb side).slotFor va).valid
    · rfl
    · have : ((s.tlb side).slotFor va).tag ≠ superpage va := fun ht => h ⟨hv, ht⟩
      simp [this]
  have unfolded : translate side mem spent walk va s =
      if spent then .retry s step issued
      else if storedTouches s.stored addr 4 then .stop (.refuse (.storedByte addr))
      else
        match physRead s mem issued addr 4 with
        | .stop f => .stop (.fault f)
        | .pending s' => .retry s' step true
        | .done s' bytes => walkEntry side step va (pteOf addr bytes) s' := by
    rw [translate]
    simp only [hm]
    rfl
  rw [unfolded]
  cases spent
  case true => exact .inl rfl
  refine .inr ?_
  cases ht : storedTouches s.stored addr 4
  case true => exact .inl rfl
  refine .inr ?_
  obtain ⟨_, hr⟩ | ⟨hb, latency, hr⟩ := physRead_cases s mem issued addr 4
  · exact .inl (by simp [hr])
  refine .inr ⟨rfl, hb, latency, ?_⟩
  obtain hr | hr := hr
  · exact .inl (by simp [hr])
  refine .inr ?_
  simp only [hr, Bool.false_eq_true, if_false]
  unfold walkEntry
  have he : pteOf addr (mem.readBytes addr 4) = e := rfl
  simp only [he]
  cases hv : pteValid e
  · exact .inl ⟨rfl, rfl⟩
  refine .inr ?_
  cases hs : step
  · exact .inl ⟨rfl, rfl, rfl⟩
  · exact .inr ⟨rfl, rfl, by simp [vpnSlot_eq_spSlot]⟩

end Sys2Proof.Machine
end

