-- ==== Sys2Proof/Laws/MemoryStage.lean ====
section
/-! SUPPORT. What the data side can change in a cycle (20_memory.md R79, R100; 70_reset_and_hazards.md R382): the data cache, the
data TLB, the backing store, `STORED`, its own status and the oracles' counts, and nothing else. -/

namespace Sys2Proof.Machine

/-- `t` is `s` up to the data side's own state. -/
def DataChange (s t : State) : Prop :=
  ∃ dtlb dcache stored pmem ms latency calls victims draws,
    t = { s with
      dtlb := dtlb
      dcache := dcache
      stored := stored
      pmem := pmem
      ms := ms
      latency := latency
      calls := calls
      victims := victims
      draws := draws }

theorem DataChange.refl (s : State) : DataChange s s := ⟨_, _, _, _, _, _, _, _, _, rfl⟩

theorem DataChange.trans {s t u : State} (h : DataChange s t) (k : DataChange t u) : DataChange s u := by
  obtain ⟨_, _, _, _, _, _, _, _, _, rfl⟩ := h
  obtain ⟨_, _, _, _, _, _, _, _, _, rfl⟩ := k
  exact ⟨_, _, _, _, _, _, _, _, _, rfl⟩

theorem DataChange.setMs {s t : State} (h : DataChange s t) (ms : MemStatus) : DataChange s { t with ms := ms } :=
  h.trans ⟨_, _, _, _, _, _, _, _, _, rfl⟩

theorem DataChange.setDLine {s t : State} (h : DataChange s t) (pa : PAddr) (way : Nat) (l : Line) :
    DataChange s (t.setDLine pa way l) :=
  h.trans ⟨_, _, _, _, _, _, _, _, _, rfl⟩

theorem DataChange.markStored {s t : State} (h : DataChange s t) (k n : Nat) : DataChange s (t.markStored k n) :=
  h.trans ⟨_, _, _, _, _, _, _, _, _, rfl⟩

theorem DataChange.mutateLine {s t : State} (h : DataChange s t) (pa : PAddr) (way : Nat) (size : AccessSize)
    (value : Word) : DataChange s (mutateLine t pa way size value) :=
  (h.setDLine _ _ _).markStored _ _

/-- The states a data-side result carries are data-side changes of `s`. -/
def DataResult.Changes (s : State) : DataResult → Prop
  | .served t _ _ => DataChange s t
  | .stall t => DataChange s t
  | .stop _ => True

theorem writeThroughStep_changes {s t : State} (h : DataChange s t) (pa : PAddr) (way : Nat) (size : AccessSize)
    (value : Word) (issued spent : Bool) : (writeThroughStep t pa way size value issued spent).Changes s := by
  unfold writeThroughStep
  cases spent
  case true => exact h.setMs _
  obtain ⟨_, hw⟩ | ⟨_, latency, hw | hw⟩ := physWrite_cases t issued pa.toNat (knownBytes size value)
  · simp only [hw]; trivial
  · simp only [hw]; exact h.trans ⟨_, _, _, _, _, _, _, _, _, rfl⟩
  · simp only [hw]
    refine DataChange.setMs (DataChange.mutateLine ?_ _ _ _ _) _
    exact h.trans ⟨_, _, _, _, _, _, _, _, _, rfl⟩

theorem serveHit_changes {s t : State} (h : DataChange s t) (op : DataOp) (pa : PAddr) (way : Nat) (spent : Bool) :
    (serveHit t op pa way spent).Changes s := by
  unfold serveHit
  cases op with
  | load size => exact h.setMs _
  | store size value =>
    dsimp only
    split
    · exact (h.mutateLine _ _ _ _).setMs _
    · exact writeThroughStep_changes h _ _ _ _ _ _

theorem installStore_changes {s t : State} (h : DataChange s t) (pa : PAddr) (way : Nat) (value : Word) (spent : Bool) :
    (installStore t pa way value spent).Changes s :=
  serveHit_changes ((h.setDLine _ _ _).markStored _ _) _ _ _ _

/-- An 8-byte store installs its line, every other access reads it (R101, R105). -/
theorem fillStep_cases (s : State) (op : DataOp) (pa : PAddr) (way : Nat) (issued : Bool) :
    (∃ value, op = .store .b8 value ∧ fillStep s op pa way issued = installStore s pa way value false) ∨
      ((∀ value, op ≠ .store .b8 value) ∧ fillStep s op pa way issued =
        match physRead s s.pmem issued (lineBase Config.dline pa) Config.dline with
        | .stop f => .stop (.fault f)
        | .pending s' => .stall { s' with ms := .dFill pa way true }
        | .done s' bytes =>
          serveHit (s'.setDLine pa way { valid := true, tag := s'.dTag pa, data := bytes, dirty := false }) op pa way
            true) := by
  unfold fillStep
  split
  · exact .inl ⟨_, rfl, rfl⟩
  · rename_i hne
    exact .inr ⟨fun value hv => hne value hv, rfl⟩

theorem fillStep_changes {s t : State} (h : DataChange s t) (op : DataOp) (pa : PAddr) (way : Nat) (issued : Bool) :
    (fillStep t op pa way issued).Changes s := by
  obtain ⟨value, rfl, hf⟩ | ⟨_, hf⟩ := fillStep_cases t op pa way issued
  · rw [hf]; exact installStore_changes h _ _ _ _
  rw [hf]
  obtain ⟨_, hr⟩ | ⟨_, latency, hr | hr⟩ := physRead_cases t t.pmem issued (lineBase Config.dline pa) Config.dline
  · rw [hr]; trivial
  · rw [hr]; exact h.trans ⟨_, _, _, _, _, _, _, _, _, rfl⟩
  · rw [hr]
    refine serveHit_changes (DataChange.setDLine ?_ _ _ _) _ _ _ _
    exact h.trans ⟨_, _, _, _, _, _, _, _, _, rfl⟩

theorem evictStep_changes {s t : State} (h : DataChange s t) (op : DataOp) (pa : PAddr) (way : Nat) (victimPa : PAddr)
    (issued : Bool) : (evictStep t op pa way victimPa issued).Changes s := by
  unfold evictStep
  obtain ⟨_, hw⟩ | ⟨_, latency, hw | hw⟩ := physWrite_cases t issued victimPa.toNat (t.dLine pa way).data
  · rw [hw]; trivial
  · rw [hw]; exact h.trans ⟨_, _, _, _, _, _, _, _, _, rfl⟩
  · rw [hw]
    dsimp only
    split
    · refine installStore_changes (DataChange.setDLine ?_ _ _ _) _ _ _ _
      exact h.trans ⟨_, _, _, _, _, _, _, _, _, rfl⟩
    · refine DataChange.setMs (DataChange.setDLine ?_ _ _ _) _
      exact h.trans ⟨_, _, _, _, _, _, _, _, _, rfl⟩

/-- The victim of a miss is chosen once; the sequence then starts with its write-back or with the fill (R97 to R99). -/
theorem startMiss_cases (s : State) (op : DataOp) (pa : PAddr) :
    ∃ way s', (way, s') = pickVictim s (victimCandidates s.writeBack (s.dcache.ways (s.dIndex pa))) ∧
      ((s'.writeBack && (s'.dLine pa way).valid && (s'.dLine pa way).dirty) = true ∧
          startMiss s op pa = evictStep s' op pa way
            (rowAddress Config.dline s'.params.dcacheRows (s'.dIndex pa) (s'.dLine pa way).tag) false ∨
        (s'.writeBack && (s'.dLine pa way).valid && (s'.dLine pa way).dirty) = false ∧
          startMiss s op pa = fillStep s' op pa way false) := by
  unfold startMiss
  generalize pickVictim s (victimCandidates s.writeBack (s.dcache.ways (s.dIndex pa))) = r
  refine ⟨r.1, r.2, rfl, ?_⟩
  by_cases hv : (r.2.writeBack && (r.2.dLine pa r.1).valid && (r.2.dLine pa r.1).dirty) = true
  · exact .inl ⟨hv, if_pos hv⟩
  · exact .inr ⟨by simpa using hv, if_neg hv⟩

theorem pickVictim_changes (s : State) (candidates : List Nat) : DataChange s (pickVictim s candidates).2 := by
  cases candidates with
  | nil => exact .refl s
  | cons w ws =>
    obtain ⟨_, h | ⟨victims, h⟩⟩ := pickVictim_cases s (w :: ws) (by simp)
    · rw [h]; exact .refl s
    · rw [h]; exact ⟨_, _, _, _, _, _, _, _, _, rfl⟩

theorem startMiss_changes {s t : State} (h : DataChange s t) (op : DataOp) (pa : PAddr) :
    (startMiss t op pa).Changes s := by
  obtain ⟨way, s', hp, ⟨_, hm⟩ | ⟨_, hm⟩⟩ := startMiss_cases t op pa
  all_goals
    have hs : DataChange s s' := h.trans (by rw [show s' = _ from congrArg Prod.snd hp]; exact pickVictim_changes _ _)
    rw [hm]
  · exact evictStep_changes hs _ _ _ _ _
  · exact fillStep_changes hs _ _ _ _

/-- A cycle of the data cache changes only the data side's own state (R96 to R105). -/
theorem dcacheAccess_changes {s t : State} (h : DataChange s t) (op : DataOp) (pa : PAddr) (spent : Bool) :
    (dcacheAccess t op pa spent).Changes s := by
  unfold dcacheAccess
  split
  · exact serveHit_changes h _ _ _ _
  · split
    · exact h.setMs _
    · split
      · exact evictStep_changes h _ _ _ _ _
      · exact fillStep_changes h _ _ _ _
      all_goals exact startMiss_changes h _ _

/-- Every state a data-side translation carries is a data-side change (R79). -/
theorem translate_data_changes (mem : Memory) (spent : Bool) (walk : Option (WalkStep × Bool)) (va : Word) (s t : State)
    (h : (∃ pa, translate .data mem spent walk va s = .done t pa) ∨
      (∃ step issued, translate .data mem spent walk va s = .retry t step issued) ∨
      translate .data mem spent walk va s = .pageFault t ∨ translate .data mem spent walk va s = .slotMismatch t) : DataChange s t := by
  by_cases hit : s.tlbHits .data va
  · simp [translate_hit hit] at h
  obtain hm | hm | hm | ⟨_, _, latency, hm | ⟨_, hm⟩ | ⟨_, _, hm⟩ | ⟨_, _, hm⟩⟩ :=
    translate_miss .data mem spent walk va s hit
  all_goals
    rw [hm] at h
    simp only [TransResult.done.injEq, TransResult.retry.injEq, TransResult.pageFault.injEq, reduceCtorEq, exists_const,
      exists_false, false_or, or_false, or_self] at h
  · obtain ⟨_, _, rfl, _⟩ := h; exact .refl _
  · obtain ⟨_, _, rfl, _⟩ := h; exact ⟨_, _, _, _, _, _, _, _, _, rfl⟩
  · subst h; exact ⟨_, _, _, _, _, _, _, _, _, rfl⟩
  · obtain ⟨_, _, rfl, _⟩ := h; exact ⟨_, _, _, _, _, _, _, _, _, rfl⟩
  · obtain ⟨_, rfl, _⟩ := h; exact ⟨_, _, _, _, _, _, _, _, _, rfl⟩

end Sys2Proof.Machine
end

