-- ==== Sys2Proof/Laws/Cycle.lean ====
section
/-! SUPPORT. Inversion of the stages above the memory stage and of the cycle (70_reset_and_hazards.md R332 to R401): once for each,
everything it can do when it gives a next state. -/

namespace Sys2Proof.Machine

/-! ## Decode -/

/-- The instruction latch `X` gets for the word in `D`, with resolved operands (R358). -/
def decodedInstr (pc : Word) (word : Word32) (predPc a b : Word) : XInstr :=
  { pc := pc
    word := word
    op := decodeWord word
    rd := dest (decodeWord word)
    a := a
    b := b
    imm := immValue (decodeWord word)
    predPc := predPc }

/-- Latch `X` gets the immediate of an instruction that has one (R353). -/
theorem immValue_of_immediate {i : Instr} {v : Word} (h : immediate i = some v) : immValue i = v := by
  simp [immValue, h]

/-- Everything the decode stage can do (R351 to R358): pass a bubble or a token, decode, or rewind. -/
theorem decodeStage_cases (oldX : XLatch) (mout : WLatch) (s : State) :
    (s.d = .bubble ∧ decodeStage oldX mout s = { s with x := .bubble }) ∨
      (∃ pc fault, s.d = .token pc fault ∧ decodeStage oldX mout s = { s with x := .token pc fault }) ∨
      ∃ pc word predPc, s.d = .instr pc word predPc ∧
        ((∃ a b, readSource s oldX mout (src1 (decodeWord word)) = some a ∧
            readSource s oldX mout (src2 (decodeWord word)) = some b ∧
            decodeStage oldX mout s = { s with x := .instr (decodedInstr pc word predPc a b) }) ∨
          ((readSource s oldX mout (src1 (decodeWord word)) = none ∨
              readSource s oldX mout (src2 (decodeWord word)) = none) ∧
            decodeStage oldX mout s = { s with x := .bubble, pc := pc, fs := .fresh })) := by
  unfold decodeStage
  cases hd : s.d with
  | bubble => exact .inl ⟨rfl, rfl⟩
  | token pc fault => exact .inr (.inl ⟨pc, fault, rfl, rfl⟩)
  | instr pc word predPc =>
    refine .inr (.inr ⟨pc, word, predPc, rfl, ?_⟩)
    dsimp only
    cases h1 : readSource s oldX mout (src1 (decodeWord word)) with
    | none => exact .inr ⟨.inl rfl, rfl⟩
    | some a =>
      cases h2 : readSource s oldX mout (src2 (decodeWord word)) with
      | none => exact .inr ⟨.inr rfl, rfl⟩
      | some b => exact .inl ⟨a, b, rfl, rfl, rfl⟩

/-- A source waits exactly for the destination of the instruction in execute, and under `EX_FORWARD` only when its output
is no register write (R354, R359). -/
theorem readSource_eq_none {s : State} {oldX : XLatch} {mout : WLatch} {src : Option Reg}
    (h : readSource s oldX mout src = none) :
    ∃ r v, src = some r ∧ oldX = .instr v ∧ v.rd = some r ∧
      (s.params.exForward = false ∨ ∀ pc rd value, s.m ≠ .reg pc rd value) := by
  unfold readSource at h
  cases src with
  | none => cases h
  | some r =>
    dsimp only at h
    unfold readOperand at h
    cases oldX with
    | bubble => cases h
    | token pc fault => cases h
    | instr v =>
      dsimp only at h
      split at h
      · rename_i hr
        refine ⟨r, v, rfl, rfl, hr, ?_⟩
        split at h
        · cases h
        · rename_i hne
          cases he : s.params.exForward
          · exact .inl rfl
          · exact .inr fun pc rd value hm => hne pc rd value he hm
      · cases h

/-! ## Fetch -/

/-- `t` is `s` up to the fetch side's own state. -/
def FetchChange (s t : State) : Prop :=
  ∃ pc d fs itlb icache latency calls victims draws,
    t = { s with
      pc := pc
      d := d
      fs := fs
      itlb := itlb
      icache := icache
      latency := latency
      calls := calls
      victims := victims
      draws := draws }

theorem FetchChange.refl (s : State) : FetchChange s s := ⟨_, _, _, _, _, _, _, _, _, rfl⟩

theorem FetchChange.trans {s t u : State} (h : FetchChange s t) (k : FetchChange t u) : FetchChange s u := by
  obtain ⟨_, _, _, _, _, _, _, _, _, rfl⟩ := h
  obtain ⟨_, _, _, _, _, _, _, _, _, rfl⟩ := k
  exact ⟨_, _, _, _, _, _, _, _, _, rfl⟩

/-- A served fetch: no byte of its word is in `STORED`, and `D` holds the word (R72, R344, R345). -/
theorem icacheServe_next {bp : Vector BpEntry 32} {pa : PAddr} {data : List (Option Byte)} {s t : State}
    (h : icacheServe bp pa data s = .next t) :
    storedTouches s.stored pa.toNat 4 = false ∧
      t = { s with
        d := .instr s.pc
          (BitVec.ofNat 32 (leValue (resolveBytes pa.toNat (slice data (lineOffset Config.iline pa) 4))))
          (predict s.params bp s.pc)
        pc := predict s.params bp s.pc
        fs := .fresh } := by
  unfold icacheServe at h
  cases hs : storedTouches s.stored pa.toNat 4
  · simp only [hs, Bool.false_eq_true, if_false, Host.Outcome.next.injEq] at h
    exact ⟨rfl, h.symm⟩
  · simp [hs] at h

theorem icacheServe_changes {bp : Vector BpEntry 32} {pa : PAddr} {data : List (Option Byte)} {s t : State}
    (h : icacheServe bp pa data s = .next t) : FetchChange s t := by
  obtain ⟨_, rfl⟩ := icacheServe_next h
  exact ⟨_, _, _, _, _, _, _, _, _, rfl⟩

/-- Everything a cycle of a fill can do (R343): wait, or install the line and serve the word. -/
theorem icacheFill_cases {bp : Vector BpEntry 32} {mem : Memory} {pa : PAddr} {way : Nat} {issued : Bool} {s t : State}
    (h : icacheFill bp mem pa way issued s = .next t) :
    ∃ latency,
      let s' : State := { s with latency := latency, calls := s.calls + 1 }
      t = { s' with d := .bubble, fs := .iFill pa way true } ∨
        icacheServe bp pa (mem.readBytes (lineBase Config.iline pa) Config.iline)
          { s' with
            icache := s'.icache.setLine (s'.iIndex pa) way
              { valid := true
                tag := s'.iTag pa
                data := mem.readBytes (lineBase Config.iline pa) Config.iline
                dirty := false } } = .next t := by
  unfold icacheFill at h
  obtain ⟨_, hr⟩ | ⟨_, latency, hr | hr⟩ := physRead_cases s mem issued (lineBase Config.iline pa) Config.iline
  · simp only [hr] at h; cases h
  · simp only [hr, Host.Outcome.next.injEq] at h
    exact ⟨latency, .inl h.symm⟩
  · simp only [hr] at h
    exact ⟨latency, .inr h⟩

theorem icacheFill_changes {bp : Vector BpEntry 32} {mem : Memory} {pa : PAddr} {way : Nat} {issued : Bool} {s t : State}
    (h : icacheFill bp mem pa way issued s = .next t) : FetchChange s t := by
  obtain ⟨latency, rfl | hs⟩ := icacheFill_cases h
  · exact ⟨_, _, _, _, _, _, _, _, _, rfl⟩
  · exact FetchChange.trans ⟨_, _, _, _, _, _, _, _, _, rfl⟩ (icacheServe_changes hs)

theorem pickVictim_fetch_changes (s : State) (candidates : List Nat) : FetchChange s (pickVictim s candidates).2 := by
  cases candidates with
  | nil => exact .refl s
  | cons w ws =>
    obtain ⟨_, h | ⟨victims, h⟩⟩ := pickVictim_cases s (w :: ws) (by simp)
    · rw [h]; exact .refl s
    · rw [h]; exact ⟨_, _, _, _, _, _, _, _, _, rfl⟩

/-- Everything the instruction cache can do at a translated address (R338, R342): serve a hit, wait for a spent call, or
go on with the fill begun, or begin one. -/
theorem icacheAccess_cases {bp : Vector BpEntry 32} {mem : Memory} {spent : Bool} {pa : PAddr} {s t : State}
    (h : icacheAccess bp mem spent pa s = .next t) :
    (∃ way, hitWay (s.icache.ways (s.iIndex pa)) (s.iTag pa) = some way ∧
        icacheServe bp pa (s.icache.line Config.iline (s.iIndex pa) way).data s = .next t) ∨
      hitWay (s.icache.ways (s.iIndex pa)) (s.iTag pa) = none ∧
        ((spent = true ∧ t = { s with d := .bubble, fs := s.spentStatus pa }) ∨
          (∃ pa' way issued, s.fs = .iFill pa' way issued ∧ icacheFill bp mem pa way issued s = .next t) ∨
          ∃ way s', (way, s') = pickVictim s (victimCandidates false (s.icache.ways (s.iIndex pa))) ∧
            icacheFill bp mem pa way false s' = .next t) := by
  unfold icacheAccess at h
  cases hw : hitWay (s.icache.ways (s.iIndex pa)) (s.iTag pa) with
  | some way => rw [hw] at h; exact .inl ⟨way, rfl, h⟩
  | none =>
    rw [hw] at h
    refine .inr ⟨rfl, ?_⟩
    cases spent
    case true => exact .inl ⟨rfl, (Host.Outcome.next.inj h).symm⟩
    dsimp only at h
    rw [if_neg (by simp)] at h
    split at h
    · rename_i pa' way issued hf
      exact .inr (.inl ⟨_, _, _, hf, h⟩)
    · exact .inr (.inr ⟨_, _, rfl, h⟩)

theorem icacheAccess_changes {bp : Vector BpEntry 32} {mem : Memory} {spent : Bool} {pa : PAddr} {s t : State}
    (h : icacheAccess bp mem spent pa s = .next t) : FetchChange s t := by
  obtain ⟨_, _, hs⟩ | ⟨_, ⟨_, rfl⟩ | ⟨_, _, _, _, hf⟩ | ⟨way, s', hp, hf⟩⟩ := icacheAccess_cases h
  · exact icacheServe_changes hs
  · exact ⟨_, _, _, _, _, _, _, _, _, rfl⟩
  · exact icacheFill_changes hf
  · refine FetchChange.trans ?_ (icacheFill_changes hf)
    rw [show s' = _ from congrArg Prod.snd hp]
    exact pickVictim_fetch_changes _ _

/-- Every state an instruction-side translation carries is a fetch-side change (R79). -/
theorem translate_instr_changes (mem : Memory) (spent : Bool) (walk : Option (WalkStep × Bool)) (va : Word) (s t : State)
    (h : (∃ pa, translate .instr mem spent walk va s = .done t pa) ∨
      (∃ step issued, translate .instr mem spent walk va s = .retry t step issued) ∨
      translate .instr mem spent walk va s = .pageFault t ∨ translate .instr mem spent walk va s = .slotMismatch t) : FetchChange s t := by
  by_cases hit : s.tlbHits .instr va
  · simp [translate_hit hit] at h
  obtain hm | hm | hm | ⟨_, _, latency, hm | ⟨_, hm⟩ | ⟨_, _, hm⟩ | ⟨_, _, hm⟩⟩ :=
    translate_miss .instr mem spent walk va s hit
  all_goals
    rw [hm] at h
    simp only [TransResult.done.injEq, TransResult.retry.injEq, TransResult.pageFault.injEq, reduceCtorEq, exists_const,
      exists_false, false_or, or_false, or_self] at h
  · obtain ⟨_, _, rfl, _⟩ := h; exact .refl _
  · obtain ⟨_, _, rfl, _⟩ := h; exact ⟨_, _, _, _, _, _, _, _, _, rfl⟩
  · subst h; exact ⟨_, _, _, _, _, _, _, _, _, rfl⟩
  · obtain ⟨_, _, rfl, _⟩ := h; exact ⟨_, _, _, _, _, _, _, _, _, rfl⟩
  · obtain ⟨_, rfl, _⟩ := h; exact ⟨_, _, _, _, _, _, _, _, _, rfl⟩

/-- Translation of a fetch, then the cache, stays on the fetch side. -/
theorem fetchTranslate_changes {bp : Vector BpEntry 32} {mem : Memory} {spent : Bool}
    {walk : Option (WalkStep × Bool)} {s t : State} (h : fetchTranslate bp mem spent walk s = .next t) :
    FetchChange s t := by
  have hc := translate_instr_changes mem spent walk s.pc s
  unfold fetchTranslate at h
  revert hc h
  cases translate .instr mem spent walk s.pc s with
  | hit pa => exact fun h _ => icacheAccess_changes h
  | done s' pa => exact fun h hc => (hc s' (.inl ⟨pa, rfl⟩)).trans (icacheAccess_changes h)
  | retry s' step issued =>
    intro h hc
    cases h
    exact (hc s' (.inr (.inl ⟨_, _, rfl⟩))).trans ⟨_, _, _, _, _, _, _, _, _, rfl⟩
  | pageFault s' =>
    intro h hc
    cases h
    exact (hc s' (.inr (.inr (.inl rfl)))).trans ⟨_, _, _, _, _, _, _, _, _, rfl⟩
  | slotMismatch s' =>
    intro h hc
    cases h
    exact (hc s' (.inr (.inr (.inr rfl)))).trans ⟨_, _, _, _, _, _, _, _, _, rfl⟩
  | stop x =>
    intro h _
    cases x <;> cases h

/-! ## The cycle -/

/-- Everything the upstream half of a cycle can do (R332): execute, decode, fetch, and the write of `W`. -/
theorem advance_next {start : State} {mout : WLatch} {dataSpent : Bool} {s t : State}
    (h : advance start mout dataSpent s = .next t) :
    ∃ s1 s2, executeStage s = .next s1 ∧
      fetchStage start.bp start.pmem (dataSpent && start.params.portSharing == .global) (decodeStage start.x mout s1)
        = .next s2 ∧
      t = { s2 with w := mout } := by
  unfold advance at h
  cases h1 : executeStage s with
  | fault f => rw [h1] at h; cases h
  | refused r => rw [h1] at h; cases h
  | next s1 =>
    rw [h1] at h
    dsimp only at h
    cases h2 : fetchStage start.bp start.pmem (dataSpent && start.params.portSharing == .global)
        (decodeStage start.x mout s1) with
    | fault f => rw [h2] at h; cases h
    | refused r => rw [h2] at h; cases h
    | next s2 =>
      rw [h2] at h
      exact ⟨s1, s2, rfl, h2, (Host.Outcome.next.inj h).symm⟩

/-- Everything a step can do when it gives a next state (R305, R332, R392, R400): nothing after a halt, a halt, a stall, or
a full cycle. -/
theorem step_next {s t : State} (h : step s = .next t) :
    (s.running = false ∧ t = s) ∨
      s.running = true ∧
        ((∃ s1 reason pc va, memoryStage s.writeback = .halt s1 reason pc va ∧ t = s1.raiseHalt reason pc va) ∨
          (∃ s1, memoryStage s.writeback = .stall s1 ∧ t = { s1 with w := .bubble }) ∨
          ∃ s1 mout spent, memoryStage s.writeback = .out s1 mout spent ∧ advance s mout spent s1 = .next t) := by
  unfold step cycle at h
  unfold State.running
  cases hh : s.halt with
  | halted reason pc va =>
    rw [hh] at h
    exact .inl ⟨rfl, (Host.Outcome.next.inj h).symm⟩
  | running =>
    rw [hh] at h
    refine .inr ⟨rfl, ?_⟩
    dsimp only at h
    cases hm : memoryStage s.writeback with
    | stop x => rw [hm] at h; cases x <;> cases h
    | halt s1 reason pc va => rw [hm] at h; exact .inl ⟨_, _, _, _, rfl, (Host.Outcome.next.inj h).symm⟩
    | stall s1 => rw [hm] at h; exact .inr (.inl ⟨_, rfl, (Host.Outcome.next.inj h).symm⟩)
    | out s1 mout spent => rw [hm] at h; exact .inr (.inr ⟨_, _, _, rfl, h⟩)

end Sys2Proof.Machine
end

