-- ==== Sys2Proof/Laws/Memory.lean ====
section
/-! SUPPORT. Laws of the backing store's bytes (10_state.md R46), of the set `STORED` (20_memory.md R72) and of little-endian
values (R66): what is read back after a write, and that every operation keeps the canonical form. -/

namespace Sys2Proof.Machine

/-! ## Reading after writing -/

theorem Memory.read_insert (m : Memory) (k a : Nat) (v : Byte) (hm : m.wf = true) :
    (m.insert k v).read a = if a = k then some v else m.read a := by
  induction m with
  | nil => simp [Memory.insert, Memory.read, eq_comm (a := a)]
  | cons c rest ih =>
    obtain ⟨b, w⟩ := c
    have ih := ih (by cases rest with
      | nil => rfl
      | cons d r => simp [Memory.wf] at hm ⊢; exact hm.2)
    simp only [Memory.insert]
    split
    · by_cases h : a = k
      · simp [Memory.read, h]
      · simp [Memory.read, h, Ne.symm h]
    · split
      · next h1 h2 =>
        subst h2
        by_cases h : a = b
        · simp [Memory.read, h]
        · simp [Memory.read, h, Ne.symm h]
      · next h1 h2 =>
        simp only [Memory.read, ih]
        by_cases h : b = a
        · subst h; simp [h2]
        · simp [h]

/-- No address of a canonical memory's tail is at or below its head's. -/
theorem Memory.read_tail_none (b : Nat) (w : Byte) (rest : Memory) (hm : Memory.wf ((b, w) :: rest) = true) :
    ∀ a, a ≤ b → rest.read a = none := by
  induction rest generalizing b w with
  | nil => intros; rfl
  | cons c r ih =>
    obtain ⟨d, x⟩ := c
    intro a ha
    simp only [Memory.wf, Bool.and_eq_true, decide_eq_true_eq] at hm
    simp only [Memory.read]
    rw [if_neg (by omega)]
    exact ih d x hm.2 a (by omega)

theorem Memory.wf_tail (c : Host.Cell) (rest : Memory) (hm : Memory.wf (c :: rest) = true) : Memory.wf rest = true := by
  cases rest with
  | nil => rfl
  | cons d r => obtain ⟨b, w⟩ := c; obtain ⟨e, x⟩ := d; simp [Memory.wf] at hm ⊢; exact hm.2

theorem Memory.read_erase (m : Memory) (k a : Nat) (hm : m.wf = true) :
    (m.erase k).read a = if a = k then none else m.read a := by
  induction m with
  | nil => simp [Memory.erase, Memory.read]
  | cons c rest ih =>
    obtain ⟨b, w⟩ := c
    have ht := Memory.wf_tail (b, w) rest hm
    simp only [Memory.erase]
    split
    · next h =>
      subst h
      by_cases h : a = b
      · subst h; simp [Memory.read_tail_none a w rest hm a le_rfl]
      · simp [Memory.read, h, Ne.symm h]
    · next h =>
      simp only [Memory.read, ih ht]
      by_cases hb : b = a
      · subst hb; simp [h]
      · simp [hb]

/-- A byte reads back as it was written, and no other byte changes. -/
theorem Memory.read_write (m : Memory) (k a : Nat) (v : Option Byte) (hm : m.wf = true) :
    (m.write k v).read a = if a = k then v else m.read a := by
  cases v with
  | some v => exact Memory.read_insert m k a v hm
  | none => exact Memory.read_erase m k a hm

/-! ## The canonical form -/

/-- Every listed address is above a bound. -/
def Memory.above (lo : Nat) (m : Memory) : Prop := ∀ c ∈ m, lo < c.1

theorem Memory.wf_cons (b : Nat) (w : Byte) (m : Memory) :
    Memory.wf ((b, w) :: m) = true ↔ Memory.above b m ∧ m.wf = true := by
  induction m generalizing b w with
  | nil => simp [Memory.wf, Memory.above]
  | cons c r ih =>
    obtain ⟨d, x⟩ := c
    have h := ih d x
    simp only [Memory.wf, Bool.and_eq_true, decide_eq_true_eq, Memory.above, List.mem_cons, forall_eq_or_imp] at h ⊢
    constructor
    · rintro ⟨h1, h2⟩
      exact ⟨⟨h1, fun e he => lt_trans h1 ((h.1 h2).1 e he)⟩, h2⟩
    · rintro ⟨⟨h1, -⟩, h2⟩
      exact ⟨h1, h2⟩

theorem Memory.above_insert (m : Memory) (lo k : Nat) (v : Byte) (hk : lo < k) (hm : Memory.above lo m) :
    Memory.above lo (m.insert k v) := by
  induction m with
  | nil => intro c hc; simp [Memory.insert] at hc; subst hc; exact hk
  | cons c r ih =>
    obtain ⟨b, w⟩ := c
    have hr : Memory.above lo r := fun e he => hm e (List.mem_cons_of_mem _ he)
    have hb : lo < b := hm (b, w) (List.mem_cons_self ..)
    simp only [Memory.insert]
    split
    · intro e he
      rcases List.mem_cons.1 he with rfl | he
      · exact hk
      · exact hm e he
    · split
      · intro e he
        rcases List.mem_cons.1 he with rfl | he
        · exact hk
        · exact hr e he
      · intro e he
        rcases List.mem_cons.1 he with rfl | he
        · exact hb
        · exact ih hr e he

theorem Memory.wf_insert (m : Memory) (k : Nat) (v : Byte) (hm : m.wf = true) : (m.insert k v).wf = true := by
  induction m with
  | nil => rfl
  | cons c r ih =>
    obtain ⟨b, w⟩ := c
    obtain ⟨ha, hr⟩ := (Memory.wf_cons b w r).1 hm
    simp only [Memory.insert]
    split
    · next h =>
      refine (Memory.wf_cons k v _).2 ⟨fun e he => ?_, hm⟩
      rcases List.mem_cons.1 he with rfl | he
      · exact h
      · exact lt_trans h (ha e he)
    · split
      · next h1 h2 => subst h2; exact (Memory.wf_cons b v r).2 ⟨ha, hr⟩
      · next h1 h2 =>
        exact (Memory.wf_cons b w _).2 ⟨Memory.above_insert r b k v (by omega) ha, ih hr⟩

theorem Memory.mem_of_mem_erase (m : Memory) (k : Nat) (c : Host.Cell) (hc : c ∈ m.erase k) : c ∈ m := by
  induction m with
  | nil => simp [Memory.erase] at hc
  | cons d r ih =>
    obtain ⟨b, w⟩ := d
    simp only [Memory.erase] at hc
    split at hc
    · exact List.mem_cons_of_mem _ hc
    · rcases List.mem_cons.1 hc with rfl | hc
      · exact List.mem_cons_self ..
      · exact List.mem_cons_of_mem _ (ih hc)

theorem Memory.wf_erase (m : Memory) (k : Nat) (hm : m.wf = true) : (m.erase k).wf = true := by
  induction m with
  | nil => rfl
  | cons c r ih =>
    obtain ⟨b, w⟩ := c
    obtain ⟨ha, hr⟩ := (Memory.wf_cons b w r).1 hm
    simp only [Memory.erase]
    split
    · exact hr
    · exact (Memory.wf_cons b w _).2 ⟨fun e he => ha e (Memory.mem_of_mem_erase r k e he), ih hr⟩

/-- A write keeps the canonical form. -/
theorem Memory.wf_write (m : Memory) (k : Nat) (v : Option Byte) (hm : m.wf = true) : (m.write k v).wf = true := by
  cases v with
  | some v => exact Memory.wf_insert m k v hm
  | none => exact Memory.wf_erase m k hm

/-- A write of several bytes keeps the canonical form. -/
theorem Memory.wf_writeBytes (m : Memory) (k : Nat) (bs : List (Option Byte)) (hm : m.wf = true) :
    (m.writeBytes k bs).wf = true := by
  induction bs generalizing m k with
  | nil => exact hm
  | cons b bs ih => exact ih _ _ (Memory.wf_write m k b hm)

/-- The reset state's memory has the canonical form. -/
theorem reset_pmem_wf : State.reset.pmem.wf = true := rfl

/-! ## Several bytes -/

@[simp] theorem Memory.length_readBytes (m : Memory) (k n : Nat) : (m.readBytes k n).length = n := by
  induction n generalizing k with
  | zero => rfl
  | succ n ih => simp [Memory.readBytes, ih]

theorem Memory.getElem?_readBytes (m : Memory) (k n i : Nat) :
    (m.readBytes k n)[i]? = if i < n then some (m.read (k + i)) else none := by
  induction n generalizing k i with
  | zero => simp [Memory.readBytes]
  | succ n ih =>
    cases i with
    | zero => simp [Memory.readBytes]
    | succ i =>
      simp only [Memory.readBytes, List.getElem?_cons_succ, ih]
      simp only [Nat.add_lt_add_iff_right, Nat.add_assoc, Nat.add_comm 1 i]

/-- The bytes written are read back, and every byte outside them reads as before. -/
theorem Memory.read_writeBytes (m : Memory) (k a : Nat) (bs : List (Option Byte)) (hm : m.wf = true) :
    (m.writeBytes k bs).read a = if k ≤ a ∧ a < k + bs.length then bs.getD (a - k) none else m.read a := by
  induction bs generalizing m k with
  | nil =>
    rw [if_neg (by simp only [List.length_nil]; omega)]
    rfl
  | cons b bs ih =>
    rw [Memory.writeBytes, ih _ _ (Memory.wf_write m k b hm), Memory.read_write m k a b hm]
    by_cases hk : a = k
    · subst hk
      rw [if_neg (by omega), if_pos rfl, if_pos (by simp only [List.length_cons]; omega)]
      simp
    · by_cases hin : k + 1 ≤ a ∧ a < k + 1 + bs.length
      · rw [if_pos hin, if_pos (by simp only [List.length_cons]; omega)]
        rw [show a - k = (a - (k + 1)) + 1 by omega]
        rfl
      · rw [if_neg hin, if_neg hk, if_neg (by simp only [List.length_cons]; omega)]

theorem Memory.above_bound_write (m : Memory) (n k : Nat) (v : Option Byte) (hk : k < n) (hm : ∀ c ∈ m, c.1 < n) :
    ∀ c ∈ m.write k v, c.1 < n := by
  cases v with
  | none => exact fun c hc => hm c (Memory.mem_of_mem_erase m k c hc)
  | some v =>
    induction m with
    | nil => intro c hc; simp [Memory.write, Memory.insert] at hc; subst hc; exact hk
    | cons d r ih =>
      obtain ⟨b, w⟩ := d
      have ih := ih (fun c hc => hm c (List.mem_cons_of_mem _ hc))
      intro c hc
      simp only [Memory.write, Memory.insert] at hc ih
      split at hc
      · rcases List.mem_cons.1 hc with rfl | hc
        · exact hk
        · exact hm c hc
      · split at hc
        · rcases List.mem_cons.1 hc with rfl | hc
          · exact hk
          · exact hm c (List.mem_cons_of_mem _ hc)
        · rcases List.mem_cons.1 hc with rfl | hc
          · exact hm _ (List.mem_cons_self ..)
          · exact ih c hc

/-- A write inside the backing store lists no address outside it. -/
theorem Memory.bound_writeBytes (m : Memory) (n k : Nat) (bs : List (Option Byte)) (hk : k + bs.length ≤ n)
    (hm : ∀ c ∈ m, c.1 < n) : ∀ c ∈ m.writeBytes k bs, c.1 < n := by
  induction bs generalizing m k with
  | nil => exact hm
  | cons b bs ih =>
    simp only [List.length_cons] at hk
    exact ih _ _ (by omega) (Memory.above_bound_write m n k b (by omega) hm)

/-! ## The set `STORED` -/

theorem contains_storedInsert (st : List Nat) (k a : Nat) :
    (storedInsert st k).contains a = (st.contains a || a == k) := by
  rw [Bool.eq_iff_iff]
  induction st with
  | nil => simp [storedInsert]
  | cons b r ih =>
    simp only [List.contains_iff_mem, Bool.or_eq_true, beq_iff_eq] at ih
    simp only [storedInsert]
    split
    · simp; tauto
    · split
      · next h => subst h; simp; tauto
      · simp [ih]; tauto

/-- `STORED` gains exactly the bytes of the store. -/
theorem contains_storedAdd (st : List Nat) (k n a : Nat) :
    (storedAdd st k n).contains a = (st.contains a || (decide (k ≤ a) && decide (a < k + n))) := by
  induction n generalizing st k with
  | zero =>
    rw [Bool.eq_iff_iff]
    simp [storedAdd]
  | succ n ih =>
    simp only [storedAdd, ih, contains_storedInsert, Bool.or_assoc]
    congr 1
    by_cases h : a = k
    · subst h; simp
    · rw [Bool.eq_iff_iff]
      simp [h]
      omega

theorem risingNats_cons (b : Nat) (r : List Nat) :
    risingNats (b :: r) = true ↔ (∀ a ∈ r, b < a) ∧ risingNats r = true := by
  induction r generalizing b with
  | nil => simp [risingNats]
  | cons c r ih =>
    have h := ih c
    simp only [risingNats, Bool.and_eq_true, decide_eq_true_eq, List.mem_cons, forall_eq_or_imp] at h ⊢
    constructor
    · rintro ⟨h1, h2⟩
      exact ⟨⟨h1, fun e he => lt_trans h1 ((h.1 h2).1 e he)⟩, h2⟩
    · rintro ⟨⟨h1, -⟩, h2⟩
      exact ⟨h1, h2⟩

theorem risingNats_storedInsert (st : List Nat) (k : Nat) (h : risingNats st = true) :
    risingNats (storedInsert st k) = true := by
  induction st with
  | nil => rfl
  | cons b r ih =>
    obtain ⟨hb, hr⟩ := (risingNats_cons b r).1 h
    simp only [storedInsert]
    split
    · next hk =>
      refine (risingNats_cons k _).2 ⟨fun a ha => ?_, h⟩
      rcases List.mem_cons.1 ha with rfl | ha
      · exact hk
      · exact lt_trans hk (hb a ha)
    · split
      · exact h
      · next h1 h2 =>
        refine (risingNats_cons b _).2 ⟨fun a ha => ?_, ih hr⟩
        have := contains_storedInsert r k a
        rw [List.contains_iff_mem.2 ha] at this
        simp only [Bool.true_eq, Bool.or_eq_true, List.contains_iff_mem, beq_iff_eq] at this
        rcases this with hm | rfl
        · exact hb a hm
        · omega

/-- `STORED` stays strictly rising. -/
theorem risingNats_storedAdd (st : List Nat) (k n : Nat) (h : risingNats st = true) :
    risingNats (storedAdd st k n) = true := by
  induction n generalizing st k with
  | zero => exact h
  | succ n ih => exact ih _ _ (risingNats_storedInsert st k h)

/-- An access that touches no stored byte still touches none of a smaller set. -/
theorem storedTouches_mono (st st' : List Nat) (k n : Nat) (h : ∀ a, st.contains a = true → st'.contains a = true)
    (ht : storedTouches st' k n = false) : storedTouches st k n = false := by
  simp only [storedTouches, List.any_eq_false, Bool.and_eq_true, decide_eq_true_eq] at ht ⊢
  exact fun a ha => ht a (List.contains_iff_mem.1 (h a (List.contains_iff_mem.2 ha)))

/-! ## Little-endian values -/

@[simp] theorem length_leBytes (n v : Nat) : (leBytes n v).length = n := by
  induction n generalizing v with
  | zero => rfl
  | succ n ih => simp [leBytes, ih]

/-- The value of the low bytes of a value is the value modulo their weight. -/
theorem leValue_leBytes (n v : Nat) : leValue (leBytes n v) = v % 256 ^ n := by
  induction n generalizing v with
  | zero => simp [leBytes, leValue, Nat.mod_one]
  | succ n ih =>
    simp only [leBytes, leValue, ih, BitVec.toNat_ofNat]
    rw [Nat.pow_succ' (m := 256), Nat.mod_mul]

@[simp] theorem length_resolveBytes (k : Nat) (bs : List (Option Byte)) : (resolveBytes k bs).length = bs.length := by
  induction bs generalizing k with
  | nil => rfl
  | cons b bs ih => simp [resolveBytes, ih]

/-- Bytes that hold values are used at them. -/
theorem resolveBytes_map_some (k : Nat) (bs : List Byte) : resolveBytes k (bs.map some) = bs := by
  induction bs generalizing k with
  | nil => rfl
  | cons b bs ih => simp [resolveBytes, resolveByte, ih]

@[simp] theorem length_storeBytes (size : AccessSize) (value : Word) : (storeBytes size value).length = size.bytes := by
  simp [storeBytes]

end Sys2Proof.Machine
end

