-- ==== Sys2Proof/Laws/DataAccess.lean ====
section
/-! SUPPORT. The terms of Safety.lean's section on the accesses of a cycle, against the memory and fetch stages (20_memory.md
R100, R108; 70_reset_and_hazards.md R338): where an access reaches its cache, and what its calls do with a given answer. -/

namespace Sys2Proof.Machine

/-! ## An answered call -/

/-- A read whose answer the harness has fixed (R61, R62). -/
theorem physRead_answered {s : State} {b : Bool} {rest : List Bool} (hl : s.latency = b :: rest) {pa n : Nat}
    (h : pa + n ≤ s.params.pmemSize) (mem : Memory) (issued : Bool) :
    physRead s mem issued pa n = if b then .done (s.answered rest) (mem.readBytes pa n) else .pending (s.answered rest) :=
  physRead_fixed hl h mem issued

/-- A write whose answer the harness has fixed (R61, R62). -/
theorem physWrite_answered {s : State} {b : Bool} {rest : List Bool} (hl : s.latency = b :: rest) {pa : Nat}
    {bytes : List (Option Byte)} (h : pa + bytes.length ≤ s.params.pmemSize) (issued : Bool) :
    physWrite s issued pa bytes =
      if b then .done { s.answered rest with pmem := s.pmem.writeBytes pa bytes } [] else .pending (s.answered rest) := by
  rw [physWrite, if_neg (by omega), State.drawLatency, hl]
  cases b <;> rfl

/-! ## Translation -/

/-- The slot an address selects, by its bits (R80). -/
theorem Tlb.slotFor_eq (t : Tlb) (va : Word) : t.slotFor va = t.slots[(va.extractLsb' 14 3).toNat] := by
  have : vpnSlot va = va.extractLsb' 14 3 := by
    rw [vpnSlot_eq_spSlot]
    refine BitVec.eq_of_getLsbD_eq fun i hi => ?_
    simp [spSlot, superpage, hi, show i < 18 by omega]
  unfold Tlb.slotFor
  simp only [this]

/-- A TLB gives an address exactly when it holds the superpage, whatever walk is in progress (R82). -/
theorem translate_of_tlbGives {s : State} {side : Side} {va : Word} {pa : PAddr} (h : s.tlbGives side va pa)
    (mem : Memory) (spent : Bool) (walk : Option (WalkStep × Bool)) : translate side mem spent walk va s = .hit pa := by
  obtain ⟨hv, ht, hp⟩ := h
  have hit : s.tlbHits side va := by
    unfold State.tlbHits
    rw [Tlb.slotFor_eq]
    exact ⟨hv, ht⟩
  rw [translate_hit hit, hp, Tlb.slotFor_eq]
  rfl

/-- What a data-side walk leaves when it finishes: the slot installed and a call made (R87). -/
theorem translate_data_done {mem : Memory} {spent : Bool} {walk : Option (WalkStep × Bool)} {va : Word} {s t : State}
    {pa : PAddr} (h : translate .data mem spent walk va s = .done t pa) :
    ∃ dtlb latency, t = { s with dtlb := dtlb, latency := latency, calls := s.calls + 1 } := by
  by_cases hit : s.tlbHits .data va
  · simp [translate_hit hit] at h
  obtain hm | hm | hm | ⟨_, _, latency, hm | ⟨_, hm⟩ | ⟨_, _, hm⟩ | ⟨_, _, hm⟩⟩ :=
    translate_miss .data mem spent walk va s hit
  all_goals
    rw [hm] at h
    simp only [reduceCtorEq, TransResult.done.injEq] at h
  exact ⟨_, latency, h.1.symm⟩

/-- What an instruction-side walk leaves when it finishes (R87). -/
theorem translate_instr_done {mem : Memory} {spent : Bool} {walk : Option (WalkStep × Bool)} {va : Word} {s t : State}
    {pa : PAddr} (h : translate .instr mem spent walk va s = .done t pa) :
    ∃ itlb latency, t = { s with itlb := itlb, latency := latency, calls := s.calls + 1 } := by
  by_cases hit : s.tlbHits .instr va
  · simp [translate_hit hit] at h
  obtain hm | hm | hm | ⟨_, _, latency, hm | ⟨_, hm⟩ | ⟨_, _, hm⟩ | ⟨_, _, hm⟩⟩ :=
    translate_miss .instr mem spent walk va s hit
  all_goals
    rw [hm] at h
    simp only [reduceCtorEq, TransResult.done.injEq] at h
  exact ⟨_, latency, h.1.symm⟩

/-! ## A cache's rows -/

/-- A row replaced twice holds the second line. -/
theorem Cache.setLine_setLine (c : Cache) (index way : Nat) (l k : Line) :
    (c.setLine index way l).setLine index way k = c.setLine index way k := by
  unfold Cache.setLine Cache.ways
  by_cases h : index < c.length
  · simp [List.getD_eq_getElem?_getD, h]
  · simp [List.set_eq_of_length_le, show c.length ≤ index by omega]

/-- A way of the set reads as the line put there. -/
theorem Cache.line_setLine {c : Cache} {index way : Nat} (h : way < (c.ways index).length) (lineSize : Nat) (l : Line) :
    (c.setLine index way l).line lineSize index way = l := by
  unfold Cache.line Cache.setLine Cache.ways at *
  by_cases hi : index < c.length
  · simp only [List.getD_eq_getElem?_getD, List.getElem?_eq_getElem hi, Option.getD_some] at h
    simp [List.getD_eq_getElem?_getD, hi, h]
  · simp [List.getD_eq_getElem?_getD, List.getElem?_eq_none (show c.length ≤ index by omega)] at h

/-- A set keeps its ways when one is replaced. -/
theorem Cache.length_ways_setLine (c : Cache) (index way : Nat) (l : Line) :
    ((c.setLine index way l).ways index).length = (c.ways index).length := by
  unfold Cache.setLine Cache.ways
  by_cases h : index < c.length
  · simp [List.getD_eq_getElem?_getD, h]
  · simp [List.set_eq_of_length_le, show c.length ≤ index by omega]

/-- The pick changes only the draws (R98). -/
theorem pickVictim_eq {s t : State} {candidates : List Nat} {way : Nat} (h : pickVictim s candidates = (way, t)) :
    ∃ victims draws, t = { s with victims := victims, draws := draws } := by
  obtain rfl : (pickVictim s candidates).2 = t := by rw [h]
  cases candidates with
  | nil => exact ⟨_, _, rfl⟩
  | cons w ws =>
    obtain ⟨_, h | ⟨victims, h⟩⟩ := pickVictim_cases s (w :: ws) (by simp)
    · exact ⟨_, _, h⟩
    · exact ⟨_, _, h⟩

/-- Bytes added to `STORED` twice are added once. -/
theorem storedAdd_twice (stored : List Nat) (k n a : Nat) :
    (storedAdd (storedAdd stored k n) k n).contains a = (storedAdd stored k n).contains a := by
  simp only [contains_storedAdd]
  cases stored.contains a <;> simp

/-! ## The data side -/

/-- A store that hits under write-back replaces its slice in the cycle (R103). -/
theorem serveHit_writeBack {s : State} (h : s.writeBack = true) (size : AccessSize) (value : Word) (pa : PAddr)
    (way : Nat) (spent : Bool) :
    serveHit s (.store size value) pa way spent =
      .served { mutateLine s pa way size value with ms := .idle } [] spent := by
  simp [serveHit, h]

/-- A store that hits under write-through, its call free and answered: the slice is replaced in the cycle the write
completes (R104). -/
theorem serveHit_writeThrough {s : State} (h : s.writeBack = false) {b : Bool} {rest : List Bool}
    (hl : s.latency = b :: rest) {size : AccessSize} {pa : PAddr} (hb : pa.toNat + size.bytes ≤ s.params.pmemSize)
    (value : Word) (way : Nat) :
    serveHit s (.store size value) pa way false =
      if b then
        .served
          { mutateLine { s.answered rest with pmem := s.pmem.writeBytes pa.toNat (knownBytes size value) } pa way size value
            with ms := .idle }
          [] true
      else .stall { s.answered rest with ms := .dWriteThrough pa true } := by
  have hb' : pa.toNat + (knownBytes size value).length ≤ s.params.pmemSize := by simpa [knownBytes] using hb
  cases b <;> simp [serveHit, h, writeThroughStep, physWrite_answered hl hb']

/-- The alignment test, spelled out (R68, R309). -/
theorem misalignedData_iff (va : Word) (size : AccessSize) :
    misalignedData va size = true ↔ 1 < size.bytes ∧ (va.toNat % 8 % 4 ≠ 0 ∨ 8 < va.toNat % 8 + size.bytes) := by
  unfold misalignedData
  simp

/-- An access that reaches the data cache is a cycle of the cache there (R100 step 3). -/
theorem dataAccess_of_reachesCache {s u : State} {va : Word} {pa : PAddr} {spent : Bool}
    (h : s.reachesCache va u pa spent) (op : DataOp) (hal : misalignedData va op.size = false) (pc : Word)
    (mout : PAddr → List (Option Byte) → WLatch) :
    dataAccess s op pc va mout = (dcacheAccess u op pa spent).toMem (mout pa) := by
  unfold dataAccess
  rw [hal]
  obtain ⟨rfl, rfl, hms | ⟨hms | ⟨step, issued, hms⟩, hg⟩⟩ | ⟨rfl, walk, ⟨hms, rfl⟩ | ⟨step, issued, hms, rfl⟩, ht⟩ := h
  · simp [hms]
  · simp [hms, translateAndAccess, translate_of_tlbGives hg]
  · simp [hms, translateAndAccess, translate_of_tlbGives hg]
  · simp [hms, translateAndAccess, ht]
  · simp [hms, translateAndAccess, ht]

/-- What an 8-byte store that misses leaves of its set: the line made of its bytes (R105). -/
def installedSet (s : State) (pa : PAddr) (way : Nat) (value : Word) (dirty : Bool) : Cache :=
  s.dcache.setLine (s.dIndex pa) way
    { valid := true, tag := s.dTag pa, data := knownBytes .b8 value, dirty := dirty }

/-- The line of an 8-byte store just installed is mutated to what it was made of, marked dirty under write-back (R105). -/
theorem mutateLine_installed {s : State} {pa : PAddr} {way : Nat} (hpa : pa.toNat % 8 = 0)
    (hway : way < (s.dcache.ways (s.dIndex pa)).length) (value : Word) (latency : List Bool) (calls : Nat) (pmem : Memory) :
    mutateLine
        { s with
          dcache := installedSet s pa way value false
          stored := storedAdd s.stored pa.toNat 8
          latency := latency
          calls := calls
          pmem := pmem }
        pa way .b8 value =
      { s with
        dcache := installedSet s pa way value s.writeBack
        stored := storedAdd (storedAdd s.stored pa.toNat 8) pa.toNat 8
        latency := latency
        calls := calls
        pmem := pmem } := by
  have hput : putSlice (knownBytes .b8 value) (lineOffset Config.dline pa) (knownBytes .b8 value) = knownBytes .b8 value := by
    simp [putSlice, lineOffset, Config.dline, hpa]
  have hl := Cache.line_setLine hway Config.dline
    { valid := true, tag := s.dTag pa, data := knownBytes .b8 value, dirty := false }
  unfold mutateLine State.setDLine State.markStored State.dLine installedSet
  simp only [State.dIndex, AccessSize.bytes] at hl ⊢
  rw [hl, hput, Cache.setLine_setLine]
  simp [State.writeBack]

/-- An 8-byte store that misses under write-back completes with no call of its own (R105). -/
theorem installStore_writeBack {s : State} {pa : PAddr} {way : Nat} (h : s.writeBack = true) (hpa : pa.toNat % 8 = 0)
    (hway : way < (s.dcache.ways (s.dIndex pa)).length) (value : Word) (spent : Bool) :
    installStore s pa way value spent =
      .served
        { s with
          ms := .idle
          dcache := installedSet s pa way value true
          stored := storedAdd (storedAdd s.stored pa.toNat 8) pa.toNat 8 }
        [] spent := by
  have hm := mutateLine_installed hpa hway value s.latency s.calls s.pmem
  rw [h] at hm
  unfold installStore
  rw [serveHit_writeBack (by exact h)]
  exact congrArg (fun t : State => DataResult.served { t with ms := .idle } [] spent) hm

/-- Under write-through an 8-byte store that misses completes with its write; its line is installed before (R104, R105,
assumption 10). -/
theorem installStore_writeThrough {s : State} {pa : PAddr} {way : Nat} (h : s.writeBack = false)
    (hpa : pa.toNat % 8 = 0) (hway : way < (s.dcache.ways (s.dIndex pa)).length) {b : Bool} {rest : List Bool}
    (hl : s.latency = b :: rest) (hb : pa.toNat + 8 ≤ s.params.pmemSize) (value : Word) :
    installStore s pa way value false =
      if b then
        .served
          { s with
            ms := .idle
            dcache := installedSet s pa way value false
            stored := storedAdd (storedAdd s.stored pa.toNat 8) pa.toNat 8
            latency := rest
            calls := s.calls + 1
            pmem := s.pmem.writeBytes pa.toNat (knownBytes .b8 value) }
          [] true
      else
        .stall
          { s with
            ms := .dWriteThrough pa true
            dcache := installedSet s pa way value false
            stored := storedAdd s.stored pa.toNat 8
            latency := rest
            calls := s.calls + 1 } := by
  have hm := mutateLine_installed hpa hway value rest (s.calls + 1)
    (s.pmem.writeBytes pa.toNat (knownBytes .b8 value))
  unfold installStore
  rw [serveHit_writeThrough (by exact h) (by exact hl) (by exact hb)]
  rw [h] at hm
  cases b
  · rw [if_neg Bool.false_ne_true, if_neg Bool.false_ne_true]; rfl
  · rw [if_pos rfl, if_pos rfl]
    exact congrArg (fun t : State => DataResult.served { t with ms := .idle } [] true) hm

/-- A miss that chooses its victim in this cycle starts there (R97, R98). -/
theorem dataAccess_of_choosesVictim {s t : State} {va : Word} {pa : PAddr} {way : Nat} (h : s.choosesVictim va pa way t)
    (op : DataOp) (hal : misalignedData va op.size = false) (pc : Word) (mout : PAddr → List (Option Byte) → WLatch) :
    dataAccess s op pc va mout =
      (if s.mustEvict pa way then
          evictStep t op pa way
            (rowAddress Config.dline s.params.dcacheRows (s.dIndex pa) (s.dLine pa way).tag) false
        else fillStep t op pa way false).toMem
        (mout pa) := by
  obtain ⟨hr, hm, hp⟩ := h
  have start : dcacheAccess s op pa false = startMiss s op pa := by
    unfold dcacheAccess
    rw [show hitWay _ _ = none from hm]
    obtain ⟨_, _, h | ⟨h | ⟨_, _, h⟩, _⟩⟩ | ⟨h, _⟩ := hr
    · simp [h]
    · simp [h]
    · simp [h]
    · cases h
  rw [dataAccess_of_reachesCache hr op hal, start, startMiss, hp]
  obtain ⟨victims, draws, rfl⟩ := pickVictim_eq hp
  rfl

/-- A cycle of a victim's write-back (R99, R108). -/
theorem dataAccess_of_writesBack {s t : State} {va : Word} {pa : PAddr} {way : Nat} {victimPa : PAddr}
    (h : s.writesBack va pa way victimPa t) (op : DataOp) (hal : misalignedData va op.size = false) (pc : Word)
    (mout : PAddr → List (Option Byte) → WLatch) :
    ∃ issued, dataAccess s op pc va mout = (evictStep t op pa way victimPa issued).toMem (mout pa) := by
  obtain ⟨hc, he, rfl⟩ | ⟨rfl, hm, issued, hms⟩ := h
  · exact ⟨false, by rw [dataAccess_of_choosesVictim hc op hal, if_pos he]; rfl⟩
  · refine ⟨issued, ?_⟩
    unfold State.dMisses at hm
    simp [dataAccess, hal, hms, dcacheAccess, hm]

/-- A cycle of a fill (R101, R108). -/
theorem dataAccess_of_fillsWay {s t : State} {va : Word} {pa : PAddr} {way : Nat} (h : s.fillsWay va pa way t)
    (op : DataOp) (hal : misalignedData va op.size = false) (pc : Word) (mout : PAddr → List (Option Byte) → WLatch) :
    ∃ issued, dataAccess s op pc va mout = (fillStep t op pa way issued).toMem (mout pa) := by
  obtain ⟨hc, he⟩ | ⟨rfl, hm, issued, hms⟩ := h
  · exact ⟨false, by rw [dataAccess_of_choosesVictim hc op hal, if_neg (by simp [he])]⟩
  · refine ⟨issued, ?_⟩
    unfold State.dMisses at hm
    simp [dataAccess, hal, hms, dcacheAccess, hm]

/-- A miss changes nothing before its write-back or fill but the draws (R98). -/
theorem eq_of_fillsWay_or_writesBack {s t : State} {va : Word} {pa : PAddr} {way : Nat}
    (h : s.fillsWay va pa way t ∨ ∃ victimPa, s.writesBack va pa way victimPa t) :
    ∃ victims draws, t = { s with victims := victims, draws := draws } := by
  obtain (⟨⟨_, _, hp⟩, _⟩ | ⟨rfl, _⟩) | ⟨_, ⟨⟨_, _, hp⟩, _⟩ | ⟨rfl, _⟩⟩ := h
  · exact pickVictim_eq hp
  · exact ⟨_, _, rfl⟩
  · exact pickVictim_eq hp
  · exact ⟨_, _, rfl⟩

end Sys2Proof.Machine
end

