-- ==== Sys2Proof/Laws/Decode.lean ====
section
/-! SUPPORT. The fields of a word written in each format (30_encoding.md R121, R122): what the decoder reads from the
encoder's words. -/

namespace Sys2Proof

/-! ## Format R -/

@[simp] theorem fieldOpcode_encR (f7 : BitVec 7) (rs2 rs1 : Reg) (f3 : BitVec 3) (rd : Reg) (op : BitVec 7) :
    fieldOpcode (encR f7 rs2 rs1 f3 rd op) = op := by
  unfold fieldOpcode encR
  refine (BitVec.extractLsb'_append_eq_of_add_le (by decide)).trans ?_
  exact BitVec.extractLsb'_eq_self
@[simp] theorem fieldRd_encR (f7 : BitVec 7) (rs2 rs1 : Reg) (f3 : BitVec 3) (rd : Reg) (op : BitVec 7) :
    fieldRd (encR f7 rs2 rs1 f3 rd op) = rd := by
  unfold fieldRd encR
  refine (BitVec.extractLsb'_append_eq_of_le (by decide)).trans ?_
  refine (BitVec.extractLsb'_append_eq_of_add_le (by decide)).trans ?_
  exact BitVec.extractLsb'_eq_self
@[simp] theorem fieldFunct3_encR (f7 : BitVec 7) (rs2 rs1 : Reg) (f3 : BitVec 3) (rd : Reg) (op : BitVec 7) :
    fieldFunct3 (encR f7 rs2 rs1 f3 rd op) = f3 := by
  unfold fieldFunct3 encR
  refine (BitVec.extractLsb'_append_eq_of_le (by decide)).trans ?_
  refine (BitVec.extractLsb'_append_eq_of_le (by decide)).trans ?_
  refine (BitVec.extractLsb'_append_eq_of_add_le (by decide)).trans ?_
  exact BitVec.extractLsb'_eq_self
@[simp] theorem fieldRs1_encR (f7 : BitVec 7) (rs2 rs1 : Reg) (f3 : BitVec 3) (rd : Reg) (op : BitVec 7) :
    fieldRs1 (encR f7 rs2 rs1 f3 rd op) = rs1 := by
  unfold fieldRs1 encR
  refine (BitVec.extractLsb'_append_eq_of_le (by decide)).trans ?_
  refine (BitVec.extractLsb'_append_eq_of_le (by decide)).trans ?_
  refine (BitVec.extractLsb'_append_eq_of_le (by decide)).trans ?_
  refine (BitVec.extractLsb'_append_eq_of_add_le (by decide)).trans ?_
  exact BitVec.extractLsb'_eq_self
@[simp] theorem fieldRs2_encR (f7 : BitVec 7) (rs2 rs1 : Reg) (f3 : BitVec 3) (rd : Reg) (op : BitVec 7) :
    fieldRs2 (encR f7 rs2 rs1 f3 rd op) = rs2 := by
  unfold fieldRs2 encR
  refine (BitVec.extractLsb'_append_eq_of_le (by decide)).trans ?_
  refine (BitVec.extractLsb'_append_eq_of_le (by decide)).trans ?_
  refine (BitVec.extractLsb'_append_eq_of_le (by decide)).trans ?_
  refine (BitVec.extractLsb'_append_eq_of_le (by decide)).trans ?_
  refine (BitVec.extractLsb'_append_eq_of_add_le (by decide)).trans ?_
  exact BitVec.extractLsb'_eq_self
@[simp] theorem fieldFunct7_encR (f7 : BitVec 7) (rs2 rs1 : Reg) (f3 : BitVec 3) (rd : Reg) (op : BitVec 7) :
    fieldFunct7 (encR f7 rs2 rs1 f3 rd op) = f7 := by
  unfold fieldFunct7 encR
  refine (BitVec.extractLsb'_append_eq_of_le (by decide)).trans ?_
  refine (BitVec.extractLsb'_append_eq_of_le (by decide)).trans ?_
  refine (BitVec.extractLsb'_append_eq_of_le (by decide)).trans ?_
  refine (BitVec.extractLsb'_append_eq_of_le (by decide)).trans ?_
  refine (BitVec.extractLsb'_append_eq_of_le (by decide)).trans ?_
  exact BitVec.extractLsb'_eq_self

/-! ## Format I -/

@[simp] theorem fieldOpcode_encI (imm : BitVec 12) (rs1 : Reg) (f3 : BitVec 3) (rd : Reg) (op : BitVec 7) :
    fieldOpcode (encI imm rs1 f3 rd op) = op := by
  unfold fieldOpcode encI
  refine (BitVec.extractLsb'_append_eq_of_add_le (by decide)).trans ?_
  exact BitVec.extractLsb'_eq_self
@[simp] theorem fieldRd_encI (imm : BitVec 12) (rs1 : Reg) (f3 : BitVec 3) (rd : Reg) (op : BitVec 7) :
    fieldRd (encI imm rs1 f3 rd op) = rd := by
  unfold fieldRd encI
  refine (BitVec.extractLsb'_append_eq_of_le (by decide)).trans ?_
  refine (BitVec.extractLsb'_append_eq_of_add_le (by decide)).trans ?_
  exact BitVec.extractLsb'_eq_self
@[simp] theorem fieldFunct3_encI (imm : BitVec 12) (rs1 : Reg) (f3 : BitVec 3) (rd : Reg) (op : BitVec 7) :
    fieldFunct3 (encI imm rs1 f3 rd op) = f3 := by
  unfold fieldFunct3 encI
  refine (BitVec.extractLsb'_append_eq_of_le (by decide)).trans ?_
  refine (BitVec.extractLsb'_append_eq_of_le (by decide)).trans ?_
  refine (BitVec.extractLsb'_append_eq_of_add_le (by decide)).trans ?_
  exact BitVec.extractLsb'_eq_self
@[simp] theorem fieldRs1_encI (imm : BitVec 12) (rs1 : Reg) (f3 : BitVec 3) (rd : Reg) (op : BitVec 7) :
    fieldRs1 (encI imm rs1 f3 rd op) = rs1 := by
  unfold fieldRs1 encI
  refine (BitVec.extractLsb'_append_eq_of_le (by decide)).trans ?_
  refine (BitVec.extractLsb'_append_eq_of_le (by decide)).trans ?_
  refine (BitVec.extractLsb'_append_eq_of_le (by decide)).trans ?_
  refine (BitVec.extractLsb'_append_eq_of_add_le (by decide)).trans ?_
  exact BitVec.extractLsb'_eq_self
@[simp] theorem fieldImmI_encI (imm : BitVec 12) (rs1 : Reg) (f3 : BitVec 3) (rd : Reg) (op : BitVec 7) :
    fieldImmI (encI imm rs1 f3 rd op) = imm := by
  unfold fieldImmI encI
  refine (BitVec.extractLsb'_append_eq_of_le (by decide)).trans ?_
  refine (BitVec.extractLsb'_append_eq_of_le (by decide)).trans ?_
  refine (BitVec.extractLsb'_append_eq_of_le (by decide)).trans ?_
  refine (BitVec.extractLsb'_append_eq_of_le (by decide)).trans ?_
  exact BitVec.extractLsb'_eq_self
@[simp] theorem fieldFunct7_encI (imm : BitVec 12) (rs1 : Reg) (f3 : BitVec 3) (rd : Reg) (op : BitVec 7) :
    fieldFunct7 (encI imm rs1 f3 rd op) = imm.extractLsb' 5 7 := by
  unfold fieldFunct7 encI
  refine (BitVec.extractLsb'_append_eq_of_le (by decide)).trans ?_
  refine (BitVec.extractLsb'_append_eq_of_le (by decide)).trans ?_
  refine (BitVec.extractLsb'_append_eq_of_le (by decide)).trans ?_
  refine (BitVec.extractLsb'_append_eq_of_le (by decide)).trans ?_
  rfl
@[simp] theorem fieldFunct6_encI (imm : BitVec 12) (rs1 : Reg) (f3 : BitVec 3) (rd : Reg) (op : BitVec 7) :
    fieldFunct6 (encI imm rs1 f3 rd op) = imm.extractLsb' 6 6 := by
  unfold fieldFunct6 encI
  refine (BitVec.extractLsb'_append_eq_of_le (by decide)).trans ?_
  refine (BitVec.extractLsb'_append_eq_of_le (by decide)).trans ?_
  refine (BitVec.extractLsb'_append_eq_of_le (by decide)).trans ?_
  refine (BitVec.extractLsb'_append_eq_of_le (by decide)).trans ?_
  rfl
@[simp] theorem fieldShamt6_encI (imm : BitVec 12) (rs1 : Reg) (f3 : BitVec 3) (rd : Reg) (op : BitVec 7) :
    fieldShamt6 (encI imm rs1 f3 rd op) = imm.extractLsb' 0 6 := by
  unfold fieldShamt6 encI
  refine (BitVec.extractLsb'_append_eq_of_le (by decide)).trans ?_
  refine (BitVec.extractLsb'_append_eq_of_le (by decide)).trans ?_
  refine (BitVec.extractLsb'_append_eq_of_le (by decide)).trans ?_
  refine (BitVec.extractLsb'_append_eq_of_le (by decide)).trans ?_
  rfl
@[simp] theorem fieldShamt5_encI (imm : BitVec 12) (rs1 : Reg) (f3 : BitVec 3) (rd : Reg) (op : BitVec 7) :
    fieldShamt5 (encI imm rs1 f3 rd op) = imm.extractLsb' 0 5 := by
  unfold fieldShamt5 encI
  refine (BitVec.extractLsb'_append_eq_of_le (by decide)).trans ?_
  refine (BitVec.extractLsb'_append_eq_of_le (by decide)).trans ?_
  refine (BitVec.extractLsb'_append_eq_of_le (by decide)).trans ?_
  refine (BitVec.extractLsb'_append_eq_of_le (by decide)).trans ?_
  rfl

/-! ## Format S -/

@[simp] theorem fieldOpcode_encS (imm : BitVec 12) (rs2 rs1 : Reg) (f3 : BitVec 3) (op : BitVec 7) :
    fieldOpcode (encS imm rs2 rs1 f3 op) = op := by
  unfold fieldOpcode encS
  refine (BitVec.extractLsb'_append_eq_of_add_le (by decide)).trans ?_
  exact BitVec.extractLsb'_eq_self
@[simp] theorem fieldFunct3_encS (imm : BitVec 12) (rs2 rs1 : Reg) (f3 : BitVec 3) (op : BitVec 7) :
    fieldFunct3 (encS imm rs2 rs1 f3 op) = f3 := by
  unfold fieldFunct3 encS
  refine (BitVec.extractLsb'_append_eq_of_le (by decide)).trans ?_
  refine (BitVec.extractLsb'_append_eq_of_le (by decide)).trans ?_
  refine (BitVec.extractLsb'_append_eq_of_add_le (by decide)).trans ?_
  exact BitVec.extractLsb'_eq_self
@[simp] theorem fieldRs1_encS (imm : BitVec 12) (rs2 rs1 : Reg) (f3 : BitVec 3) (op : BitVec 7) :
    fieldRs1 (encS imm rs2 rs1 f3 op) = rs1 := by
  unfold fieldRs1 encS
  refine (BitVec.extractLsb'_append_eq_of_le (by decide)).trans ?_
  refine (BitVec.extractLsb'_append_eq_of_le (by decide)).trans ?_
  refine (BitVec.extractLsb'_append_eq_of_le (by decide)).trans ?_
  refine (BitVec.extractLsb'_append_eq_of_add_le (by decide)).trans ?_
  exact BitVec.extractLsb'_eq_self
@[simp] theorem fieldRs2_encS (imm : BitVec 12) (rs2 rs1 : Reg) (f3 : BitVec 3) (op : BitVec 7) :
    fieldRs2 (encS imm rs2 rs1 f3 op) = rs2 := by
  unfold fieldRs2 encS
  refine (BitVec.extractLsb'_append_eq_of_le (by decide)).trans ?_
  refine (BitVec.extractLsb'_append_eq_of_le (by decide)).trans ?_
  refine (BitVec.extractLsb'_append_eq_of_le (by decide)).trans ?_
  refine (BitVec.extractLsb'_append_eq_of_le (by decide)).trans ?_
  refine (BitVec.extractLsb'_append_eq_of_add_le (by decide)).trans ?_
  exact BitVec.extractLsb'_eq_self

/-! ## Format B -/

@[simp] theorem fieldOpcode_encB (o : BitVec 13) (rs2 rs1 : Reg) (f3 : BitVec 3) (op : BitVec 7) :
    fieldOpcode (encB o rs2 rs1 f3 op) = op := by
  unfold fieldOpcode encB
  refine (BitVec.extractLsb'_append_eq_of_add_le (by decide)).trans ?_
  exact BitVec.extractLsb'_eq_self
@[simp] theorem fieldFunct3_encB (o : BitVec 13) (rs2 rs1 : Reg) (f3 : BitVec 3) (op : BitVec 7) :
    fieldFunct3 (encB o rs2 rs1 f3 op) = f3 := by
  unfold fieldFunct3 encB
  refine (BitVec.extractLsb'_append_eq_of_le (by decide)).trans ?_
  refine (BitVec.extractLsb'_append_eq_of_le (by decide)).trans ?_
  refine (BitVec.extractLsb'_append_eq_of_le (by decide)).trans ?_
  refine (BitVec.extractLsb'_append_eq_of_add_le (by decide)).trans ?_
  exact BitVec.extractLsb'_eq_self
@[simp] theorem fieldRs1_encB (o : BitVec 13) (rs2 rs1 : Reg) (f3 : BitVec 3) (op : BitVec 7) :
    fieldRs1 (encB o rs2 rs1 f3 op) = rs1 := by
  unfold fieldRs1 encB
  refine (BitVec.extractLsb'_append_eq_of_le (by decide)).trans ?_
  refine (BitVec.extractLsb'_append_eq_of_le (by decide)).trans ?_
  refine (BitVec.extractLsb'_append_eq_of_le (by decide)).trans ?_
  refine (BitVec.extractLsb'_append_eq_of_le (by decide)).trans ?_
  refine (BitVec.extractLsb'_append_eq_of_add_le (by decide)).trans ?_
  exact BitVec.extractLsb'_eq_self
@[simp] theorem fieldRs2_encB (o : BitVec 13) (rs2 rs1 : Reg) (f3 : BitVec 3) (op : BitVec 7) :
    fieldRs2 (encB o rs2 rs1 f3 op) = rs2 := by
  unfold fieldRs2 encB
  refine (BitVec.extractLsb'_append_eq_of_le (by decide)).trans ?_
  refine (BitVec.extractLsb'_append_eq_of_le (by decide)).trans ?_
  refine (BitVec.extractLsb'_append_eq_of_le (by decide)).trans ?_
  refine (BitVec.extractLsb'_append_eq_of_le (by decide)).trans ?_
  refine (BitVec.extractLsb'_append_eq_of_le (by decide)).trans ?_
  refine (BitVec.extractLsb'_append_eq_of_add_le (by decide)).trans ?_
  exact BitVec.extractLsb'_eq_self

/-! ## Format U -/

@[simp] theorem fieldOpcode_encU (imm20 : BitVec 20) (rd : Reg) (op : BitVec 7) :
    fieldOpcode (encU imm20 rd op) = op := by
  unfold fieldOpcode encU
  refine (BitVec.extractLsb'_append_eq_of_add_le (by decide)).trans ?_
  exact BitVec.extractLsb'_eq_self
@[simp] theorem fieldRd_encU (imm20 : BitVec 20) (rd : Reg) (op : BitVec 7) :
    fieldRd (encU imm20 rd op) = rd := by
  unfold fieldRd encU
  refine (BitVec.extractLsb'_append_eq_of_le (by decide)).trans ?_
  refine (BitVec.extractLsb'_append_eq_of_add_le (by decide)).trans ?_
  exact BitVec.extractLsb'_eq_self
@[simp] theorem fieldImmU_encU (imm20 : BitVec 20) (rd : Reg) (op : BitVec 7) :
    fieldImmU (encU imm20 rd op) = imm20 := by
  unfold fieldImmU encU
  refine (BitVec.extractLsb'_append_eq_of_le (by decide)).trans ?_
  refine (BitVec.extractLsb'_append_eq_of_le (by decide)).trans ?_
  exact BitVec.extractLsb'_eq_self

/-! ## Format J -/

@[simp] theorem fieldOpcode_encJ (o : BitVec 21) (rd : Reg) (op : BitVec 7) :
    fieldOpcode (encJ o rd op) = op := by
  unfold fieldOpcode encJ
  refine (BitVec.extractLsb'_append_eq_of_add_le (by decide)).trans ?_
  exact BitVec.extractLsb'_eq_self
@[simp] theorem fieldRd_encJ (o : BitVec 21) (rd : Reg) (op : BitVec 7) :
    fieldRd (encJ o rd op) = rd := by
  unfold fieldRd encJ
  refine (BitVec.extractLsb'_append_eq_of_le (by decide)).trans ?_
  refine (BitVec.extractLsb'_append_eq_of_add_le (by decide)).trans ?_
  exact BitVec.extractLsb'_eq_self

/-! ## Split immediates -/

/-- The two parts of an S-immediate (R131). -/
theorem immS_parts (imm : BitVec 12) : imm.extractLsb' 5 7 ++ imm.extractLsb' 0 5 = imm := by
  ext i hi
  simp only [BitVec.getElem_append, BitVec.getElem_extractLsb']
  split
  · simp; rfl
  · next h =>
    have : 5 + (i - 5) = i := by omega
    simp [this]; rfl

/-- The parts of a B-offset, with its zero bit (R132). -/
theorem immB_parts (o : BitVec 13) (h : o.getLsbD 0 = false) :
    o.extractLsb' 12 1 ++ o.extractLsb' 11 1 ++ o.extractLsb' 5 6 ++ o.extractLsb' 1 4 ++ 0#1 = o := by
  refine BitVec.eq_of_getLsbD_eq fun i hi => ?_
  have : i = 0 ∨ i = 1 ∨ i = 2 ∨ i = 3 ∨ i = 4 ∨ i = 5 ∨ i = 6 ∨ i = 7 ∨ i = 8 ∨ i = 9 ∨ i = 10 ∨ i = 11 ∨ i = 12 := by
    omega
  rcases this with rfl | rfl | rfl | rfl | rfl | rfl | rfl | rfl | rfl | rfl | rfl | rfl | rfl <;>
    simp only [BitVec.getLsbD_append, BitVec.getLsbD_extractLsb', h] <;> simp

/-- The parts of a J-offset, with its zero bit (R134). -/
theorem immJ_parts (o : BitVec 21) (h : o.getLsbD 0 = false) :
    o.extractLsb' 20 1 ++ o.extractLsb' 12 8 ++ o.extractLsb' 11 1 ++ o.extractLsb' 1 10 ++ 0#1 = o := by
  refine BitVec.eq_of_getLsbD_eq fun i hi => ?_
  have : i = 0 ∨ i = 1 ∨ i = 2 ∨ i = 3 ∨ i = 4 ∨ i = 5 ∨ i = 6 ∨ i = 7 ∨ i = 8 ∨ i = 9 ∨ i = 10 ∨ i = 11 ∨ i = 12
      ∨ i = 13 ∨ i = 14 ∨ i = 15 ∨ i = 16 ∨ i = 17 ∨ i = 18 ∨ i = 19 ∨ i = 20 := by
    omega
  rcases this with rfl | rfl | rfl | rfl | rfl | rfl | rfl | rfl | rfl | rfl | rfl | rfl | rfl | rfl | rfl | rfl | rfl | rfl
      | rfl | rfl | rfl <;>
    simp only [BitVec.getLsbD_append, BitVec.getLsbD_extractLsb', h] <;> simp

theorem fieldImmS_encS_part0 (imm : BitVec 12) (rs2 rs1 : Reg) (f3 : BitVec 3) (op : BitVec 7) :
    (encS imm rs2 rs1 f3 op : Word32).extractLsb' 25 7 = (imm.extractLsb' 5 7) := by
  unfold encS
  refine (BitVec.extractLsb'_append_eq_of_le (by decide)).trans ?_
  refine (BitVec.extractLsb'_append_eq_of_le (by decide)).trans ?_
  refine (BitVec.extractLsb'_append_eq_of_le (by decide)).trans ?_
  refine (BitVec.extractLsb'_append_eq_of_le (by decide)).trans ?_
  refine (BitVec.extractLsb'_append_eq_of_le (by decide)).trans ?_
  exact BitVec.extractLsb'_eq_self
theorem fieldImmS_encS_part1 (imm : BitVec 12) (rs2 rs1 : Reg) (f3 : BitVec 3) (op : BitVec 7) :
    (encS imm rs2 rs1 f3 op : Word32).extractLsb' 7 5 = (imm.extractLsb' 0 5) := by
  unfold encS
  refine (BitVec.extractLsb'_append_eq_of_le (by decide)).trans ?_
  refine (BitVec.extractLsb'_append_eq_of_add_le (by decide)).trans ?_
  exact BitVec.extractLsb'_eq_self

@[simp] theorem fieldImmS_encS (imm : BitVec 12) (rs2 rs1 : Reg) (f3 : BitVec 3) (op : BitVec 7) : fieldImmS (encS imm rs2 rs1 f3 op) = imm := by
  unfold fieldImmS
  rw [fieldImmS_encS_part0, fieldImmS_encS_part1, immS_parts]

theorem fieldImmB_encB_part0 (o : BitVec 13) (rs2 rs1 : Reg) (f3 : BitVec 3) (op : BitVec 7) :
    (encB o rs2 rs1 f3 op : Word32).extractLsb' 31 1 = (o.extractLsb' 12 1) := by
  unfold encB
  refine (BitVec.extractLsb'_append_eq_of_le (by decide)).trans ?_
  refine (BitVec.extractLsb'_append_eq_of_le (by decide)).trans ?_
  refine (BitVec.extractLsb'_append_eq_of_le (by decide)).trans ?_
  refine (BitVec.extractLsb'_append_eq_of_le (by decide)).trans ?_
  refine (BitVec.extractLsb'_append_eq_of_le (by decide)).trans ?_
  refine (BitVec.extractLsb'_append_eq_of_le (by decide)).trans ?_
  refine (BitVec.extractLsb'_append_eq_of_le (by decide)).trans ?_
  exact BitVec.extractLsb'_eq_self
theorem fieldImmB_encB_part1 (o : BitVec 13) (rs2 rs1 : Reg) (f3 : BitVec 3) (op : BitVec 7) :
    (encB o rs2 rs1 f3 op : Word32).extractLsb' 7 1 = (o.extractLsb' 11 1) := by
  unfold encB
  refine (BitVec.extractLsb'_append_eq_of_le (by decide)).trans ?_
  refine (BitVec.extractLsb'_append_eq_of_add_le (by decide)).trans ?_
  exact BitVec.extractLsb'_eq_self
theorem fieldImmB_encB_part2 (o : BitVec 13) (rs2 rs1 : Reg) (f3 : BitVec 3) (op : BitVec 7) :
    (encB o rs2 rs1 f3 op : Word32).extractLsb' 25 6 = (o.extractLsb' 5 6) := by
  unfold encB
  refine (BitVec.extractLsb'_append_eq_of_le (by decide)).trans ?_
  refine (BitVec.extractLsb'_append_eq_of_le (by decide)).trans ?_
  refine (BitVec.extractLsb'_append_eq_of_le (by decide)).trans ?_
  refine (BitVec.extractLsb'_append_eq_of_le (by decide)).trans ?_
  refine (BitVec.extractLsb'_append_eq_of_le (by decide)).trans ?_
  refine (BitVec.extractLsb'_append_eq_of_le (by decide)).trans ?_
  refine (BitVec.extractLsb'_append_eq_of_add_le (by decide)).trans ?_
  exact BitVec.extractLsb'_eq_self
theorem fieldImmB_encB_part3 (o : BitVec 13) (rs2 rs1 : Reg) (f3 : BitVec 3) (op : BitVec 7) :
    (encB o rs2 rs1 f3 op : Word32).extractLsb' 8 4 = (o.extractLsb' 1 4) := by
  unfold encB
  refine (BitVec.extractLsb'_append_eq_of_le (by decide)).trans ?_
  refine (BitVec.extractLsb'_append_eq_of_le (by decide)).trans ?_
  refine (BitVec.extractLsb'_append_eq_of_add_le (by decide)).trans ?_
  exact BitVec.extractLsb'_eq_self

/-- The offset is put back together, but for its bit 0, which the word does not hold. -/
theorem fieldImmB_encB (o : BitVec 13) (rs2 rs1 : Reg) (f3 : BitVec 3) (op : BitVec 7) (h : o.getLsbD 0 = false) : fieldImmB (encB o rs2 rs1 f3 op) = o := by
  unfold fieldImmB
  rw [fieldImmB_encB_part0, fieldImmB_encB_part1, fieldImmB_encB_part2, fieldImmB_encB_part3]
  exact immB_parts o h

theorem fieldImmJ_encJ_part0 (o : BitVec 21) (rd : Reg) (op : BitVec 7) :
    (encJ o rd op : Word32).extractLsb' 31 1 = (o.extractLsb' 20 1) := by
  unfold encJ
  refine (BitVec.extractLsb'_append_eq_of_le (by decide)).trans ?_
  refine (BitVec.extractLsb'_append_eq_of_le (by decide)).trans ?_
  refine (BitVec.extractLsb'_append_eq_of_le (by decide)).trans ?_
  refine (BitVec.extractLsb'_append_eq_of_le (by decide)).trans ?_
  refine (BitVec.extractLsb'_append_eq_of_le (by decide)).trans ?_
  exact BitVec.extractLsb'_eq_self
theorem fieldImmJ_encJ_part1 (o : BitVec 21) (rd : Reg) (op : BitVec 7) :
    (encJ o rd op : Word32).extractLsb' 12 8 = (o.extractLsb' 12 8) := by
  unfold encJ
  refine (BitVec.extractLsb'_append_eq_of_le (by decide)).trans ?_
  refine (BitVec.extractLsb'_append_eq_of_le (by decide)).trans ?_
  refine (BitVec.extractLsb'_append_eq_of_add_le (by decide)).trans ?_
  exact BitVec.extractLsb'_eq_self
theorem fieldImmJ_encJ_part2 (o : BitVec 21) (rd : Reg) (op : BitVec 7) :
    (encJ o rd op : Word32).extractLsb' 20 1 = (o.extractLsb' 11 1) := by
  unfold encJ
  refine (BitVec.extractLsb'_append_eq_of_le (by decide)).trans ?_
  refine (BitVec.extractLsb'_append_eq_of_le (by decide)).trans ?_
  refine (BitVec.extractLsb'_append_eq_of_le (by decide)).trans ?_
  refine (BitVec.extractLsb'_append_eq_of_add_le (by decide)).trans ?_
  exact BitVec.extractLsb'_eq_self
theorem fieldImmJ_encJ_part3 (o : BitVec 21) (rd : Reg) (op : BitVec 7) :
    (encJ o rd op : Word32).extractLsb' 21 10 = (o.extractLsb' 1 10) := by
  unfold encJ
  refine (BitVec.extractLsb'_append_eq_of_le (by decide)).trans ?_
  refine (BitVec.extractLsb'_append_eq_of_le (by decide)).trans ?_
  refine (BitVec.extractLsb'_append_eq_of_le (by decide)).trans ?_
  refine (BitVec.extractLsb'_append_eq_of_le (by decide)).trans ?_
  refine (BitVec.extractLsb'_append_eq_of_add_le (by decide)).trans ?_
  exact BitVec.extractLsb'_eq_self

/-- The offset is put back together, but for its bit 0, which the word does not hold. -/
theorem fieldImmJ_encJ (o : BitVec 21) (rd : Reg) (op : BitVec 7) (h : o.getLsbD 0 = false) : fieldImmJ (encJ o rd op) = o := by
  unfold fieldImmJ
  rw [fieldImmJ_encJ_part0, fieldImmJ_encJ_part1, fieldImmJ_encJ_part2, fieldImmJ_encJ_part3]
  exact immJ_parts o h

/-! ## The no-op classes -/

@[simp] theorem fieldOpcode_rest (rest : BitVec 25) (op : BitVec 7) : fieldOpcode (rest ++ op) = op := by
  unfold fieldOpcode
  refine (BitVec.extractLsb'_append_eq_of_add_le (by decide)).trans ?_
  exact BitVec.extractLsb'_eq_self

@[simp] theorem fieldRest_rest (rest : BitVec 25) (op : BitVec 7) : fieldRest (rest ++ op) = rest := by
  unfold fieldRest
  refine (BitVec.extractLsb'_append_eq_of_le (by decide)).trans ?_
  exact BitVec.extractLsb'_eq_self

/-! ## Shift immediates (R135) -/

@[simp] theorem funct6_shamt (f6 shamt : BitVec 6) : (f6 ++ shamt).extractLsb' 6 6 = f6 :=
  (BitVec.extractLsb'_append_eq_of_le (by decide)).trans BitVec.extractLsb'_eq_self

@[simp] theorem shamt6_shamt (f6 shamt : BitVec 6) : (f6 ++ shamt).extractLsb' 0 6 = shamt :=
  (BitVec.extractLsb'_append_eq_of_add_le (by decide)).trans BitVec.extractLsb'_eq_self

@[simp] theorem funct7_shamt (f7 : BitVec 7) (shamt : BitVec 5) : (f7 ++ shamt).extractLsb' 5 7 = f7 :=
  (BitVec.extractLsb'_append_eq_of_le (by decide)).trans BitVec.extractLsb'_eq_self

@[simp] theorem shamt5_shamt (f7 : BitVec 7) (shamt : BitVec 5) : (f7 ++ shamt).extractLsb' 0 5 = shamt :=
  (BitVec.extractLsb'_append_eq_of_add_le (by decide)).trans BitVec.extractLsb'_eq_self

/-! ## The all-zero word -/

/-- A word with an opcode is not the all-zero word (R136 step 1). -/
theorem ne_zero_of_opcode {w : Word32} (h : fieldOpcode w ≠ 0#7) : w ≠ 0#32 := by
  rintro rfl
  exact h (by decide)

end Sys2Proof
end

