-- ==== Sys2Proof/Laws/PerInstr.lean ====
section
/-! SUPPORT. The family `Fields`: for each instruction, its destination and sources stand in the `rd`, `rs1` and `rs2` fields of
its word (30_encoding.md R121, R143, R144). -/

namespace Sys2Proof.Laws.Fields

open Sys2Proof.Machine

/-- The registers an instruction names are the register fields of its word. -/
def Statement (i : Instr) : Prop :=
  (∀ r, dest i = some r → fieldRd (encode i) = r) ∧ (∀ r, src1 i = some r → fieldRs1 (encode i) = r) ∧
    ∀ r, src2 i = some r → fieldRs2 (encode i) = r

/-- For every constructor. -/
theorem all (i : Instr) : Statement i := by
  cases i <;> simp [Statement, dest, src1, src2, encode]

theorem zero : Statement (.zero) := all _

theorem addi (rd rs1 : Reg) (imm : BitVec 12) : Statement (.addi rd rs1 imm) := all _

theorem slti (rd rs1 : Reg) (imm : BitVec 12) : Statement (.slti rd rs1 imm) := all _

theorem sltiu (rd rs1 : Reg) (imm : BitVec 12) : Statement (.sltiu rd rs1 imm) := all _

theorem xori (rd rs1 : Reg) (imm : BitVec 12) : Statement (.xori rd rs1 imm) := all _

theorem ori (rd rs1 : Reg) (imm : BitVec 12) : Statement (.ori rd rs1 imm) := all _

theorem andi (rd rs1 : Reg) (imm : BitVec 12) : Statement (.andi rd rs1 imm) := all _

theorem slli (rd rs1 : Reg) (shamt : BitVec 6) : Statement (.slli rd rs1 shamt) := all _

theorem srli (rd rs1 : Reg) (shamt : BitVec 6) : Statement (.srli rd rs1 shamt) := all _

theorem srai (rd rs1 : Reg) (shamt : BitVec 6) : Statement (.srai rd rs1 shamt) := all _

theorem lui (rd : Reg) (imm20 : BitVec 20) : Statement (.lui rd imm20) := all _

theorem auipc (rd : Reg) (imm20 : BitVec 20) : Statement (.auipc rd imm20) := all _

theorem add (rd rs1 rs2 : Reg) : Statement (.add rd rs1 rs2) := all _

theorem sub (rd rs1 rs2 : Reg) : Statement (.sub rd rs1 rs2) := all _

theorem sll (rd rs1 rs2 : Reg) : Statement (.sll rd rs1 rs2) := all _

theorem slt (rd rs1 rs2 : Reg) : Statement (.slt rd rs1 rs2) := all _

theorem sltu (rd rs1 rs2 : Reg) : Statement (.sltu rd rs1 rs2) := all _

theorem xor (rd rs1 rs2 : Reg) : Statement (.xor rd rs1 rs2) := all _

theorem srl (rd rs1 rs2 : Reg) : Statement (.srl rd rs1 rs2) := all _

theorem sra (rd rs1 rs2 : Reg) : Statement (.sra rd rs1 rs2) := all _

theorem or (rd rs1 rs2 : Reg) : Statement (.or rd rs1 rs2) := all _

theorem and (rd rs1 rs2 : Reg) : Statement (.and rd rs1 rs2) := all _

theorem addiw (rd rs1 : Reg) (imm : BitVec 12) : Statement (.addiw rd rs1 imm) := all _

theorem slliw (rd rs1 : Reg) (shamt : BitVec 5) : Statement (.slliw rd rs1 shamt) := all _

theorem srliw (rd rs1 : Reg) (shamt : BitVec 5) : Statement (.srliw rd rs1 shamt) := all _

theorem sraiw (rd rs1 : Reg) (shamt : BitVec 5) : Statement (.sraiw rd rs1 shamt) := all _

theorem addw (rd rs1 rs2 : Reg) : Statement (.addw rd rs1 rs2) := all _

theorem subw (rd rs1 rs2 : Reg) : Statement (.subw rd rs1 rs2) := all _

theorem sllw (rd rs1 rs2 : Reg) : Statement (.sllw rd rs1 rs2) := all _

theorem srlw (rd rs1 rs2 : Reg) : Statement (.srlw rd rs1 rs2) := all _

theorem sraw (rd rs1 rs2 : Reg) : Statement (.sraw rd rs1 rs2) := all _

theorem mul (rd rs1 rs2 : Reg) : Statement (.mul rd rs1 rs2) := all _

theorem mulh (rd rs1 rs2 : Reg) : Statement (.mulh rd rs1 rs2) := all _

theorem mulhsu (rd rs1 rs2 : Reg) : Statement (.mulhsu rd rs1 rs2) := all _

theorem mulhu (rd rs1 rs2 : Reg) : Statement (.mulhu rd rs1 rs2) := all _

theorem mulw (rd rs1 rs2 : Reg) : Statement (.mulw rd rs1 rs2) := all _

theorem div (rd rs1 rs2 : Reg) : Statement (.div rd rs1 rs2) := all _

theorem divu (rd rs1 rs2 : Reg) : Statement (.divu rd rs1 rs2) := all _

theorem rem (rd rs1 rs2 : Reg) : Statement (.rem rd rs1 rs2) := all _

theorem remu (rd rs1 rs2 : Reg) : Statement (.remu rd rs1 rs2) := all _

theorem divw (rd rs1 rs2 : Reg) : Statement (.divw rd rs1 rs2) := all _

theorem divuw (rd rs1 rs2 : Reg) : Statement (.divuw rd rs1 rs2) := all _

theorem remw (rd rs1 rs2 : Reg) : Statement (.remw rd rs1 rs2) := all _

theorem remuw (rd rs1 rs2 : Reg) : Statement (.remuw rd rs1 rs2) := all _

theorem beq (rs1 rs2 : Reg) (offset : BitVec 13) : Statement (.beq rs1 rs2 offset) := all _

theorem bne (rs1 rs2 : Reg) (offset : BitVec 13) : Statement (.bne rs1 rs2 offset) := all _

theorem blt (rs1 rs2 : Reg) (offset : BitVec 13) : Statement (.blt rs1 rs2 offset) := all _

theorem bge (rs1 rs2 : Reg) (offset : BitVec 13) : Statement (.bge rs1 rs2 offset) := all _

theorem bltu (rs1 rs2 : Reg) (offset : BitVec 13) : Statement (.bltu rs1 rs2 offset) := all _

theorem bgeu (rs1 rs2 : Reg) (offset : BitVec 13) : Statement (.bgeu rs1 rs2 offset) := all _

theorem jal (rd : Reg) (offset : BitVec 21) : Statement (.jal rd offset) := all _

theorem jalr (rd rs1 : Reg) (imm : BitVec 12) : Statement (.jalr rd rs1 imm) := all _

theorem lb (rd rs1 : Reg) (imm : BitVec 12) : Statement (.lb rd rs1 imm) := all _

theorem lh (rd rs1 : Reg) (imm : BitVec 12) : Statement (.lh rd rs1 imm) := all _

theorem lw (rd rs1 : Reg) (imm : BitVec 12) : Statement (.lw rd rs1 imm) := all _

theorem ld (rd rs1 : Reg) (imm : BitVec 12) : Statement (.ld rd rs1 imm) := all _

theorem lbu (rd rs1 : Reg) (imm : BitVec 12) : Statement (.lbu rd rs1 imm) := all _

theorem lhu (rd rs1 : Reg) (imm : BitVec 12) : Statement (.lhu rd rs1 imm) := all _

theorem lwu (rd rs1 : Reg) (imm : BitVec 12) : Statement (.lwu rd rs1 imm) := all _

theorem sb (rs1 rs2 : Reg) (imm : BitVec 12) : Statement (.sb rs1 rs2 imm) := all _

theorem sh (rs1 rs2 : Reg) (imm : BitVec 12) : Statement (.sh rs1 rs2 imm) := all _

theorem sw (rs1 rs2 : Reg) (imm : BitVec 12) : Statement (.sw rs1 rs2 imm) := all _

theorem sd (rs1 rs2 : Reg) (imm : BitVec 12) : Statement (.sd rs1 rs2 imm) := all _

theorem miscMem (rest : BitVec 25) : Statement (.miscMem rest) := all _

theorem amo (rest : BitVec 25) : Statement (.amo rest) := all _

theorem system (rest : BitVec 25) : Statement (.system rest) := all _

theorem illegal (word : Word32) : Statement (.illegal word) := all _

end Sys2Proof.Laws.Fields
end

