-- ==== Sys2Proof/Tests/Slice0.lean ====
section
/-! SUPPORT. The model's own tests and the witnesses of the statements' hypotheses. Expected values come from 95_test_vectors.md
and from the encodings of opcode_table.json, written out by hand; the vector a test follows is named in its comment. The
states start from the vectors' standard start state S0 with Table E, with the TLBs and caches warm where a test says so. -/

namespace Sys2Proof.Tests

open Sys2Proof.Machine

/-! ## Helpers -/

/-- The 4 bytes of a word at an address. -/
def wordCells (a : Nat) (w : Word32) : Memory :=
  [(a, w.extractLsb' 0 8), (a + 1, w.extractLsb' 8 8), (a + 2, w.extractLsb' 16 8), (a + 3, w.extractLsb' 24 8)]

/-- The program at physical `0x9000`, which is virtual `0x1000`: `SD x6, 0(x10)`, `LD x5, 0(x10)`, `ADDI x1, x0, 5`,
`ADD x3, x1, x2`. -/
def program : Memory :=
  wordCells 0x9000 0x00653023#32 ++ wordCells 0x9004 0x00053283#32 ++ wordCells 0x9008 0x00500093#32
    ++ wordCells 0x900C 0x002081B3#32

/-- Table E, and the page table of S0 with the invalid entries at `0x10004` and `0x14004`. -/
def tables : Memory :=
  wordCells 0xA000 0x83828180#32 ++ wordCells 0xA004 0x87868584#32 ++ wordCells 0x10000 0x80000005#32
    ++ wordCells 0x10004 0#32 ++ wordCells 0x14000 0x80000002#32 ++ wordCells 0x14004 0#32

/-- S0 with the program and Table E. -/
def cold : State := State.launch Config.defaults 0x1000#64 0x10000#32 (Vector.replicate 32 0#64) (program ++ tables)

/-- The bytes the backing store of `cold` holds from an address up. -/
def lineAt (a n : Nat) : List (Option Byte) := cold.pmem.readBytes a n

/-- The translation of superpage 0 in slot 0. -/
def warmTlb : Tlb :=
  { Tlb.empty with slots := Tlb.empty.slots.set 0 { valid := true, tag := 0#18, ppn := 2#18 } }

/-- S0 with both TLBs warm for superpage 0, the program's line in the instruction cache and Table E's in the data
cache. -/
def warm : State :=
  { cold with
    itlb := warmTlb
    dtlb := warmTlb
    icache := cold.icache.setLine 0 0 { valid := true, tag := 0x240, data := lineAt 0x9000 16, dirty := false }
    dcache := cold.dcache.setLine 0 0 { valid := true, tag := 0x500, data := lineAt 0xA000 8, dirty := false } }

/-- Latch `X` with an instruction at `pc`, predicted to fall through. -/
def latched (i : Instr) (pc a b : Word) : XInstr :=
  { pc := pc
    word := encode i
    op := i
    rd := dest i
    a := a
    b := b
    imm := immValue i
    predPc := pc + 4#64 }

/-- `warm` with an instruction in `X` and the next one to be fetched. -/
def holding (i : Instr) (pc a b : Word) : State := { warm with x := .instr (latched i pc a b), pc := pc + 4#64 }

/-- The value an instruction puts in latch `M` for its destination. -/
def result (i : Instr) (pc a b : Word) : Option Word :=
  match exec i (holding i pc a b) with
  | .next t =>
    match t.m with
    | .reg _ rd v => if rd = dest i then some v else none
    | _ => none
  | _ => none

/-- The same with `DIV_SENTINEL_UNSIGNED = false`. -/
def resultPlain (i : Instr) (pc a b : Word) : Option Word :=
  let s := holding i pc a b
  match exec i { s with params := { s.params with divSentinelUnsigned := false } } with
  | .next t =>
    match t.m with
    | .reg _ _ v => some v
    | _ => none
  | _ => none

/-- The PC after execution. -/
def nextPc (i : Instr) (pc a b : Word) : Option Word :=
  match exec i (holding i pc a b) with
  | .next t => some t.pc
  | _ => none

/-- Executes a load or store, then its memory stage: what latch `W` gets. -/
def accessed (i : Instr) (a b : Word) : MemResult :=
  match exec i (holding i 0x1000#64 a b) with
  | .next t => memoryStage t
  | _ => .stop (.refuse (.storedByte 0))

/-- The value a load delivers. -/
def loaded (i : Instr) (a : Word) : Option Word :=
  match accessed i a 0#64 with
  | .out _ (.retire _ rd v) _ => if rd = dest i then some v else none
  | _ => none

/-- The 8 bytes at physical `0xA000` as loads see them after a store. -/
def afterStore (i : Instr) (a b : Word) : Option Nat :=
  match accessed i a b with
  | .out t _ _ => some (t.viewValue 0xA000#32 8)
  | _ => none

/-- The halt an access raises. -/
def haltOf (r : MemResult) : Option (HaltReason × Word × Word) :=
  match r with
  | .halt _ reason pc va => some (reason, pc, va)
  | _ => none

/-- A no-op: nothing goes to a register, nothing is logged, the PC falls through. -/
def isNoOp (i : Instr) : Bool :=
  match exec i (holding i 0x1000#64 7#64 0#64) with
  | .next t => t.m == .noEffect 0x1000#64 && t.log == [] && t.pc == 0x1004#64 && t.d == .bubble
  | _ => false

/-! ### Outcomes -/

/-- Is it a next state? -/
def isNext : Result → Bool
  | .next _ => true
  | .fault _ => false
  | .refused _ => false

/-- The next state. -/
def nextState (d : State) : Result → State
  | .next t => t
  | .fault _ => d
  | .refused _ => d

theorem next_of {r : Result} (h : isNext r = true) : r = .next (nextState cold r) := by
  cases r <;> first | rfl | cases h

/-- Does the memory stage complete? -/
def isOut : MemResult → Bool
  | .out _ _ _ => true
  | .stall _ => false
  | .halt _ _ _ _ => false
  | .stop _ => false

theorem out_of {r : MemResult} (h : isOut r = true) : ∃ s mout spent, r = .out s mout spent := by
  cases r <;> first | exact ⟨_, _, _, rfl⟩ | cases h

/-- Does the memory stage stall? -/
def isStall : MemResult → Bool
  | .out _ _ _ => false
  | .stall _ => true
  | .halt _ _ _ _ => false
  | .stop _ => false

theorem stall_of {r : MemResult} (h : isStall r = true) : ∃ s, r = .stall s := by
  cases r <;> first | exact ⟨_, rfl⟩ | cases h

theorem halt_of {r : MemResult} (h : (haltOf r).isSome = true) : ∃ s reason pc va, r = .halt s reason pc va := by
  cases r <;> first | exact ⟨_, _, _, _, rfl⟩ | cases h

theorem some_of {o : Option State} (h : o.isSome = true) : o = some (o.getD cold) := by
  cases o <;> first | rfl | cases h

/-- The kinds of a translation's result, for tests. -/
inductive TransKind where
  | hit
  | done
  | retry
  | pageFault
  | other
  deriving DecidableEq, Repr

/-- The kind of a result. -/
def transKind : TransResult → TransKind
  | .hit _ => .hit
  | .done _ _ => .done
  | .retry _ _ _ => .retry
  | .pageFault _ => .pageFault
  | .slotMismatch _ => .other
  | .stop _ => .other

theorem done_of {r : TransResult} (h : transKind r = .done) : ∃ s pa, r = .done s pa := by
  cases r <;> first | exact ⟨_, _, rfl⟩ | cases h

theorem retry_of {r : TransResult} (h : transKind r = .retry) : ∃ s step issued, r = .retry s step issued := by
  cases r <;> first | exact ⟨_, _, _, rfl⟩ | cases h

theorem fault_of {r : TransResult} (h : transKind r = .pageFault) : ∃ s, r = .pageFault s := by
  cases r <;> first | exact ⟨_, rfl⟩ | cases h

/-! ## Decoding (30_encoding.md R121 to R138): one word for each row, its fields written out bit by bit -/

theorem test_decode_zero : decodeWord 0b00000000000000000000000000000000#32 = .zero := by decide

theorem test_decode_addi : decodeWord 0b100000000110_00001_000_10011_0010011#32 = .addi 19#5 1#5 0x806#12 := by decide

theorem test_decode_slti : decodeWord 0b100000000110_00001_010_10011_0010011#32 = .slti 19#5 1#5 0x806#12 := by decide

theorem test_decode_sltiu : decodeWord 0b100000000110_00001_011_10011_0010011#32 = .sltiu 19#5 1#5 0x806#12 := by decide

theorem test_decode_xori : decodeWord 0b100000000110_00001_100_10011_0010011#32 = .xori 19#5 1#5 0x806#12 := by decide

theorem test_decode_ori : decodeWord 0b100000000110_00001_110_10011_0010011#32 = .ori 19#5 1#5 0x806#12 := by decide

theorem test_decode_andi : decodeWord 0b100000000110_00001_111_10011_0010011#32 = .andi 19#5 1#5 0x806#12 := by decide

theorem test_decode_slli : decodeWord 0b000000_100110_00001_001_10011_0010011#32 = .slli 19#5 1#5 38#6 := by decide

theorem test_decode_srli : decodeWord 0b000000_100110_00001_101_10011_0010011#32 = .srli 19#5 1#5 38#6 := by decide

theorem test_decode_srai : decodeWord 0b010000_100110_00001_101_10011_0010011#32 = .srai 19#5 1#5 38#6 := by decide

theorem test_decode_lui : decodeWord 0b10000000000000000011_10011_0110111#32 = .lui 19#5 0x80003#20 := by decide

theorem test_decode_auipc : decodeWord 0b10000000000000000011_10011_0010111#32 = .auipc 19#5 0x80003#20 := by decide

theorem test_decode_add : decodeWord 0b0000000_00010_00001_000_10011_0110011#32 = .add 19#5 1#5 2#5 := by decide

theorem test_decode_sub : decodeWord 0b0100000_00010_00001_000_10011_0110011#32 = .sub 19#5 1#5 2#5 := by decide

theorem test_decode_sll : decodeWord 0b0000000_00010_00001_001_10011_0110011#32 = .sll 19#5 1#5 2#5 := by decide

theorem test_decode_slt : decodeWord 0b0000000_00010_00001_010_10011_0110011#32 = .slt 19#5 1#5 2#5 := by decide

theorem test_decode_sltu : decodeWord 0b0000000_00010_00001_011_10011_0110011#32 = .sltu 19#5 1#5 2#5 := by decide

theorem test_decode_xor : decodeWord 0b0000000_00010_00001_100_10011_0110011#32 = .xor 19#5 1#5 2#5 := by decide

theorem test_decode_srl : decodeWord 0b0000000_00010_00001_101_10011_0110011#32 = .srl 19#5 1#5 2#5 := by decide

theorem test_decode_sra : decodeWord 0b0100000_00010_00001_101_10011_0110011#32 = .sra 19#5 1#5 2#5 := by decide

theorem test_decode_or : decodeWord 0b0000000_00010_00001_110_10011_0110011#32 = .or 19#5 1#5 2#5 := by decide

theorem test_decode_and : decodeWord 0b0000000_00010_00001_111_10011_0110011#32 = .and 19#5 1#5 2#5 := by decide

theorem test_decode_addiw : decodeWord 0b100000000110_00001_000_10011_0011011#32 = .addiw 19#5 1#5 0x806#12 := by decide

theorem test_decode_slliw : decodeWord 0b0000000_10110_00001_001_10011_0011011#32 = .slliw 19#5 1#5 22#5 := by decide

theorem test_decode_srliw : decodeWord 0b0000000_10110_00001_101_10011_0011011#32 = .srliw 19#5 1#5 22#5 := by decide

theorem test_decode_sraiw : decodeWord 0b0100000_10110_00001_101_10011_0011011#32 = .sraiw 19#5 1#5 22#5 := by decide

theorem test_decode_addw : decodeWord 0b0000000_00010_00001_000_10011_0111011#32 = .addw 19#5 1#5 2#5 := by decide

theorem test_decode_subw : decodeWord 0b0100000_00010_00001_000_10011_0111011#32 = .subw 19#5 1#5 2#5 := by decide

theorem test_decode_sllw : decodeWord 0b0000000_00010_00001_001_10011_0111011#32 = .sllw 19#5 1#5 2#5 := by decide

theorem test_decode_srlw : decodeWord 0b0000000_00010_00001_101_10011_0111011#32 = .srlw 19#5 1#5 2#5 := by decide

theorem test_decode_sraw : decodeWord 0b0100000_00010_00001_101_10011_0111011#32 = .sraw 19#5 1#5 2#5 := by decide

theorem test_decode_mul : decodeWord 0b0000001_00010_00001_000_10011_0110011#32 = .mul 19#5 1#5 2#5 := by decide

theorem test_decode_mulh : decodeWord 0b0000001_00010_00001_001_10011_0110011#32 = .mulh 19#5 1#5 2#5 := by decide

theorem test_decode_mulhsu : decodeWord 0b0000001_00010_00001_010_10011_0110011#32 = .mulhsu 19#5 1#5 2#5 := by decide

theorem test_decode_mulhu : decodeWord 0b0000001_00010_00001_011_10011_0110011#32 = .mulhu 19#5 1#5 2#5 := by decide

theorem test_decode_mulw : decodeWord 0b0000001_00010_00001_000_10011_0111011#32 = .mulw 19#5 1#5 2#5 := by decide

theorem test_decode_div : decodeWord 0b0000001_00010_00001_100_10011_0110011#32 = .div 19#5 1#5 2#5 := by decide

theorem test_decode_divu : decodeWord 0b0000001_00010_00001_101_10011_0110011#32 = .divu 19#5 1#5 2#5 := by decide

theorem test_decode_rem : decodeWord 0b0000001_00010_00001_110_10011_0110011#32 = .rem 19#5 1#5 2#5 := by decide

theorem test_decode_remu : decodeWord 0b0000001_00010_00001_111_10011_0110011#32 = .remu 19#5 1#5 2#5 := by decide

theorem test_decode_divw : decodeWord 0b0000001_00010_00001_100_10011_0111011#32 = .divw 19#5 1#5 2#5 := by decide

theorem test_decode_divuw : decodeWord 0b0000001_00010_00001_101_10011_0111011#32 = .divuw 19#5 1#5 2#5 := by decide

theorem test_decode_remw : decodeWord 0b0000001_00010_00001_110_10011_0111011#32 = .remw 19#5 1#5 2#5 := by decide

theorem test_decode_remuw : decodeWord 0b0000001_00010_00001_111_10011_0111011#32 = .remuw 19#5 1#5 2#5 := by decide

theorem test_decode_beq : decodeWord 0b1_000010_00010_00001_000_0011_0_1100011#32 = .beq 1#5 2#5 0x1046#13 := by decide

theorem test_decode_bne : decodeWord 0b1_000010_00010_00001_001_0011_0_1100011#32 = .bne 1#5 2#5 0x1046#13 := by decide

theorem test_decode_blt : decodeWord 0b1_000010_00010_00001_100_0011_0_1100011#32 = .blt 1#5 2#5 0x1046#13 := by decide

theorem test_decode_bge : decodeWord 0b1_000010_00010_00001_101_0011_0_1100011#32 = .bge 1#5 2#5 0x1046#13 := by decide

theorem test_decode_bltu : decodeWord 0b1_000010_00010_00001_110_0011_0_1100011#32 = .bltu 1#5 2#5 0x1046#13 := by decide

theorem test_decode_bgeu : decodeWord 0b1_000010_00010_00001_111_0011_0_1100011#32 = .bgeu 1#5 2#5 0x1046#13 := by decide

theorem test_decode_jal : decodeWord 0b1_0000000011_0_00000101_10011_1101111#32 = .jal 19#5 0x105006#21 := by decide

theorem test_decode_jalr : decodeWord 0b100000000110_00001_000_10011_1100111#32 = .jalr 19#5 1#5 0x806#12 := by decide

theorem test_decode_lb : decodeWord 0b100000000110_00001_000_10011_0000011#32 = .lb 19#5 1#5 0x806#12 := by decide

theorem test_decode_lh : decodeWord 0b100000000110_00001_001_10011_0000011#32 = .lh 19#5 1#5 0x806#12 := by decide

theorem test_decode_lw : decodeWord 0b100000000110_00001_010_10011_0000011#32 = .lw 19#5 1#5 0x806#12 := by decide

theorem test_decode_ld : decodeWord 0b100000000110_00001_011_10011_0000011#32 = .ld 19#5 1#5 0x806#12 := by decide

theorem test_decode_lbu : decodeWord 0b100000000110_00001_100_10011_0000011#32 = .lbu 19#5 1#5 0x806#12 := by decide

theorem test_decode_lhu : decodeWord 0b100000000110_00001_101_10011_0000011#32 = .lhu 19#5 1#5 0x806#12 := by decide

theorem test_decode_lwu : decodeWord 0b100000000110_00001_110_10011_0000011#32 = .lwu 19#5 1#5 0x806#12 := by decide

theorem test_decode_sb : decodeWord 0b1000000_00010_00001_000_10110_0100011#32 = .sb 1#5 2#5 0x816#12 := by decide

theorem test_decode_sh : decodeWord 0b1000000_00010_00001_001_10110_0100011#32 = .sh 1#5 2#5 0x816#12 := by decide

theorem test_decode_sw : decodeWord 0b1000000_00010_00001_010_10110_0100011#32 = .sw 1#5 2#5 0x816#12 := by decide

theorem test_decode_sd : decodeWord 0b1000000_00010_00001_011_10110_0100011#32 = .sd 1#5 2#5 0x816#12 := by decide

theorem test_decode_miscMem : decodeWord 0b0000111111110000000000000_0001111#32 = .miscMem 0b0000111111110000000000000#25 := by decide

theorem test_decode_amo : decodeWord 0b0001000000000101001000101_0101111#32 = .amo 0b0001000000000101001000101#25 := by decide

theorem test_decode_system : decodeWord 0b0011010000100000001001010_1110011#32 = .system 0b0011010000100000001001010#25 := by decide

theorem test_decode_illegal : decodeWord 0b0000000_00000_00000_010_00000_0000111#32 = .illegal 0x00002007#32 := by decide

/-- Words no row of the table has (vectors Q11 to Q32). -/
theorem test_decode_undefined_words :
    [0xFFFFFFFF#32, 0x00000001#32, 0x0000000B#32, 0x04009093#32, 0x2000D093#32, 0x0200909B#32,
      0x000090E7#32, 0x0000F083#32, 0x00004023#32, 0x00002063#32, 0x00003063#32, 0x04000033#32,
      0x40001033#32, 0x0000203B#32, 0x0200203B#32, 0x0200103B#32, 0x0000201B#32, 0x0000601B#32].all fun w => decodeWord w = .illegal w := by decide

/-- Vectors Q2, Q15, Q17, Q20, Q33, Q34. -/
theorem test_decode_vectors :
    decodeWord 0x00000013#32 = .addi 0#5 0#5 0#12 ∧ decodeWord 0x02009093#32 = .slli 1#5 1#5 32#6 ∧
      decodeWord 0x43F0D093#32 = .srai 1#5 1#5 63#6 ∧ decodeWord 0x4000D09B#32 = .sraiw 1#5 1#5 0#5 ∧
      decodeWord 0x00C5F533#32 = .and 10#5 11#5 12#5 ∧ decodeWord 0x02C5F533#32 = .remu 10#5 11#5 12#5 := by decide

/-- The host's numbering: the word's bits from 0 up, zero above `nbits`. -/
theorem test_decodeTableWord :
    decodeTableWord 32 0x00500093 = some (.addi 1#5 0#5 5#12) ∧ decodeTableWord 16 0xFFFF0137 = some (.lui 2#5 0#20) ∧
      decodeTableWord 8 0 = some .zero := by decide

/-- Fewer than 4 bytes are rejected by name (R120). -/
theorem test_decodeBytes_short : decodeBytes [0x13#8, 0x00#8, 0x00#8] = .error .shortWord := by rfl

/-! ## Well-formedness: an ill-formed term for each check is refused -/

theorem test_wf_branch_odd_offset :
    [Instr.beq 1#5 2#5 3#13, .bne 1#5 2#5 1#13, .blt 1#5 2#5 5#13, .bge 1#5 2#5 7#13, .bltu 1#5 2#5 9#13,
      .bgeu 1#5 2#5 0x1FFF#13].all fun i => i.wf = false := by decide

theorem test_wf_jal_odd_offset : (Instr.jal 1#5 0x100001#21).wf = false := by decide

theorem test_wf_illegal_with_a_row : (Instr.illegal 0x00500093#32).wf = false ∧ (Instr.illegal 0#32).wf = false := by decide

theorem test_wf_accepts :
    (Instr.beq 1#5 2#5 0x1FF8#13).wf = true ∧ (Instr.jal 1#5 4#21).wf = true ∧ (Instr.illegal 0xFFFFFFFF#32).wf = true := by
  decide

/-! ## Execution: the vectors of sections 3.1 to 3.5 -/

/-- V1, V2. -/
theorem test_exec_addi :
    result (.addi 3#5 1#5 0x1#12) 0x1000#64 0x7FFFFFFFFFFFFFFF#64 0x0#64 = some 0x8000000000000000#64 ∧
      result (.addi 3#5 1#5 0xFFA#12) 0x1000#64 0x5#64 0x0#64 = some 0xFFFFFFFFFFFFFFFF#64 := by decide

/-- V3. -/
theorem test_exec_slti :
    result (.slti 3#5 1#5 0x0#12) 0x1000#64 0xFFFFFFFFFFFFFFFF#64 0x0#64 = some 0x1#64 := by decide

/-- V4, V5. -/
theorem test_exec_sltiu :
    result (.sltiu 3#5 1#5 0xFFF#12) 0x1000#64 0x5#64 0x0#64 = some 0x1#64 ∧
      result (.sltiu 3#5 1#5 0x1#12) 0x1000#64 0x0#64 0x0#64 = some 0x1#64 := by decide

/-- V6. -/
theorem test_exec_xori :
    result (.xori 3#5 1#5 0xFFF#12) 0x1000#64 0xFF#64 0x0#64 = some 0xFFFFFFFFFFFFFF00#64 := by decide

/-- V7. -/
theorem test_exec_ori :
    result (.ori 3#5 1#5 0xF#12) 0x1000#64 0x100#64 0x0#64 = some 0x10F#64 := by decide

/-- V8. -/
theorem test_exec_andi :
    result (.andi 3#5 1#5 0xF00#12) 0x1000#64 0xFFFF#64 0x0#64 = some 0xFF00#64 := by decide

/-- V9. -/
theorem test_exec_slli :
    result (.slli 3#5 1#5 0x3F#6) 0x1000#64 0x1#64 0x0#64 = some 0x8000000000000000#64 := by decide

/-- V10. -/
theorem test_exec_srli :
    result (.srli 3#5 1#5 0x3F#6) 0x1000#64 0xFFFFFFFFFFFFFFFF#64 0x0#64 = some 0x1#64 := by decide

/-- V11. -/
theorem test_exec_srai :
    result (.srai 3#5 1#5 0x3F#6) 0x1000#64 0x8000000000000000#64 0x0#64 = some 0xFFFFFFFFFFFFFFFF#64 := by decide

/-- V12, V37. -/
theorem test_exec_lui :
    result (.lui 3#5 0x80000#20) 0x1000#64 0x0#64 0x0#64 = some 0xFFFFFFFF80000000#64 ∧
      result (.lui 3#5 0x12345#20) 0x1000#64 0x0#64 0x0#64 = some 0x12345000#64 := by decide

/-- V36. -/
theorem test_exec_auipc :
    result (.auipc 3#5 0xFFFFF#20) 0x1000#64 0x0#64 0x0#64 = some 0x0#64 := by decide

/-- V13. -/
theorem test_exec_add :
    result (.add 3#5 1#5 2#5) 0x1000#64 0xFFFFFFFFFFFFFFFF#64 0x1#64 = some 0x0#64 := by decide

/-- V14. -/
theorem test_exec_sub :
    result (.sub 3#5 1#5 2#5) 0x1000#64 0x0#64 0x1#64 = some 0xFFFFFFFFFFFFFFFF#64 := by decide

/-- V15, V16. -/
theorem test_exec_sll :
    result (.sll 3#5 1#5 2#5) 0x1000#64 0x1#64 0x40#64 = some 0x1#64 ∧
      result (.sll 3#5 1#5 2#5) 0x1000#64 0x1#64 0x41#64 = some 0x2#64 := by decide

/-- V17. -/
theorem test_exec_slt :
    result (.slt 3#5 1#5 2#5) 0x1000#64 0xFFFFFFFFFFFFFFFE#64 0x1#64 = some 0x1#64 := by decide

/-- V18, V19. -/
theorem test_exec_sltu :
    result (.sltu 3#5 1#5 2#5) 0x1000#64 0xFFFFFFFFFFFFFFFE#64 0x1#64 = some 0x0#64 ∧
      result (.sltu 3#5 1#5 2#5) 0x1000#64 0x0#64 0x5#64 = some 0x1#64 := by decide

/-- V20. -/
theorem test_exec_xor :
    result (.xor 3#5 1#5 2#5) 0x1000#64 0x5A#64 0x5A#64 = some 0x0#64 := by decide

/-- V21. -/
theorem test_exec_srl :
    result (.srl 3#5 1#5 2#5) 0x1000#64 0xFFFFFFFFFFFFFFF0#64 0x4#64 = some 0xFFFFFFFFFFFFFFF#64 := by decide

/-- V22. -/
theorem test_exec_sra :
    result (.sra 3#5 1#5 2#5) 0x1000#64 0xFFFFFFFFFFFFFFF0#64 0x4#64 = some 0xFFFFFFFFFFFFFFFF#64 := by decide

/-- V23. -/
theorem test_exec_or :
    result (.or 3#5 1#5 2#5) 0x1000#64 0xF0#64 0xF#64 = some 0xFF#64 := by decide

/-- V24. -/
theorem test_exec_and :
    result (.and 3#5 1#5 2#5) 0x1000#64 0xF0#64 0x3C#64 = some 0x30#64 := by decide

/-- V25, V26. -/
theorem test_exec_addiw :
    result (.addiw 3#5 1#5 0x1#12) 0x1000#64 0x7FFFFFFF#64 0x0#64 = some 0xFFFFFFFF80000000#64 ∧
      result (.addiw 3#5 1#5 0x0#12) 0x1000#64 0xFFFFFFFF00000005#64 0x0#64 = some 0x5#64 := by decide

/-- V27. -/
theorem test_exec_slliw :
    result (.slliw 3#5 1#5 0x1F#5) 0x1000#64 0x1#64 0x0#64 = some 0xFFFFFFFF80000000#64 := by decide

/-- V28, V29. -/
theorem test_exec_srliw :
    result (.srliw 3#5 1#5 0x1#5) 0x1000#64 0xFFFFFFFF80000000#64 0x0#64 = some 0x40000000#64 ∧
      result (.srliw 3#5 1#5 0x0#5) 0x1000#64 0x80000000#64 0x0#64 = some 0xFFFFFFFF80000000#64 := by decide

/-- V30. -/
theorem test_exec_sraiw :
    result (.sraiw 3#5 1#5 0x4#5) 0x1000#64 0x80000000#64 0x0#64 = some 0xFFFFFFFFF8000000#64 := by decide

/-- V31. -/
theorem test_exec_addw :
    result (.addw 3#5 1#5 2#5) 0x1000#64 0x7FFFFFFF#64 0x1#64 = some 0xFFFFFFFF80000000#64 := by decide

/-- V32. -/
theorem test_exec_subw :
    result (.subw 3#5 1#5 2#5) 0x1000#64 0x0#64 0x1#64 = some 0xFFFFFFFFFFFFFFFF#64 := by decide

/-- V33. -/
theorem test_exec_sllw :
    result (.sllw 3#5 1#5 2#5) 0x1000#64 0x1#64 0x20#64 = some 0x1#64 := by decide

/-- V34. -/
theorem test_exec_srlw :
    result (.srlw 3#5 1#5 2#5) 0x1000#64 0xFFFFFFFFFFFFFFFF#64 0x4#64 = some 0xFFFFFFF#64 := by decide

/-- V35. -/
theorem test_exec_sraw :
    result (.sraw 3#5 1#5 2#5) 0x1000#64 0x80000000#64 0x1F#64 = some 0xFFFFFFFFFFFFFFFF#64 := by decide

/-- M1, M2. -/
theorem test_exec_mul :
    result (.mul 3#5 1#5 2#5) 0x1000#64 0xFFFFFFFFFFFFFFFD#64 0x7#64 = some 0xFFFFFFFFFFFFFFEB#64 ∧
      result (.mul 3#5 1#5 2#5) 0x1000#64 0x100000000#64 0x100000000#64 = some 0x0#64 := by decide

/-- M3, M4. -/
theorem test_exec_mulh :
    result (.mulh 3#5 1#5 2#5) 0x1000#64 0xFFFFFFFFFFFFFFFF#64 0xFFFFFFFFFFFFFFFF#64 = some 0x0#64 ∧
      result (.mulh 3#5 1#5 2#5) 0x1000#64 0x8000000000000000#64 0x8000000000000000#64 = some 0x4000000000000000#64 := by decide

/-- M5. -/
theorem test_exec_mulhsu :
    result (.mulhsu 3#5 1#5 2#5) 0x1000#64 0xFFFFFFFFFFFFFFFF#64 0xFFFFFFFFFFFFFFFF#64 = some 0xFFFFFFFFFFFFFFFF#64 := by decide

/-- M6. -/
theorem test_exec_mulhu :
    result (.mulhu 3#5 1#5 2#5) 0x1000#64 0xFFFFFFFFFFFFFFFF#64 0xFFFFFFFFFFFFFFFF#64 = some 0xFFFFFFFFFFFFFFFE#64 := by decide

/-- M7. -/
theorem test_exec_mulw :
    result (.mulw 3#5 1#5 2#5) 0x1000#64 0x7FFFFFFF#64 0x2#64 = some 0xFFFFFFFFFFFFFFFE#64 := by decide

/-- M8 to M11. -/
theorem test_exec_div :
    result (.div 3#5 1#5 2#5) 0x1000#64 0x7#64 0xFFFFFFFFFFFFFFFE#64 = some 0xFFFFFFFFFFFFFFFD#64 ∧
      result (.div 3#5 1#5 2#5) 0x1000#64 0xFFFFFFFFFFFFFFF9#64 0x2#64 = some 0xFFFFFFFFFFFFFFFD#64 ∧
      result (.div 3#5 1#5 2#5) 0x1000#64 0x5#64 0x0#64 = some 0xFFFFFFFFFFFFFFFF#64 ∧
      result (.div 3#5 1#5 2#5) 0x1000#64 0x8000000000000000#64 0xFFFFFFFFFFFFFFFF#64 = some 0xFFFFFFFFFFFFFFFF#64 := by decide

/-- M12 to M14. -/
theorem test_exec_divu :
    result (.divu 3#5 1#5 2#5) 0x1000#64 0x7#64 0x2#64 = some 0x3#64 ∧
      result (.divu 3#5 1#5 2#5) 0x1000#64 0x5#64 0x0#64 = some 0xFFFFFFFFFFFFFFFF#64 ∧
      result (.divu 3#5 1#5 2#5) 0x1000#64 0x8000000000000000#64 0xFFFFFFFFFFFFFFFF#64 = some 0xFFFFFFFFFFFFFFFF#64 ∧
      resultPlain (.divu 3#5 1#5 2#5) 0x1000#64 0x8000000000000000#64 0xFFFFFFFFFFFFFFFF#64 = some 0x0#64 := by decide

/-- M15 to M18. -/
theorem test_exec_rem :
    result (.rem 3#5 1#5 2#5) 0x1000#64 0x7#64 0xFFFFFFFFFFFFFFFE#64 = some 0x1#64 ∧
      result (.rem 3#5 1#5 2#5) 0x1000#64 0xFFFFFFFFFFFFFFF9#64 0x2#64 = some 0xFFFFFFFFFFFFFFFF#64 ∧
      result (.rem 3#5 1#5 2#5) 0x1000#64 0x5#64 0x0#64 = some 0xFFFFFFFFFFFFFFFF#64 ∧
      result (.rem 3#5 1#5 2#5) 0x1000#64 0x8000000000000000#64 0xFFFFFFFFFFFFFFFF#64 = some 0xFFFFFFFFFFFFFFFF#64 := by decide

/-- M19 to M21. -/
theorem test_exec_remu :
    result (.remu 3#5 1#5 2#5) 0x1000#64 0x7#64 0x2#64 = some 0x1#64 ∧
      result (.remu 3#5 1#5 2#5) 0x1000#64 0x5#64 0x0#64 = some 0xFFFFFFFFFFFFFFFF#64 ∧
      result (.remu 3#5 1#5 2#5) 0x1000#64 0x8000000000000000#64 0xFFFFFFFFFFFFFFFF#64 = some 0xFFFFFFFFFFFFFFFF#64 ∧
      resultPlain (.remu 3#5 1#5 2#5) 0x1000#64 0x8000000000000000#64 0xFFFFFFFFFFFFFFFF#64 = some 0x8000000000000000#64 := by decide

/-- M22 to M24. -/
theorem test_exec_divw :
    result (.divw 3#5 1#5 2#5) 0x1000#64 0xFFFFFFFFFFFFFFF9#64 0x2#64 = some 0xFFFFFFFFFFFFFFFD#64 ∧
      result (.divw 3#5 1#5 2#5) 0x1000#64 0x5#64 0x100000000#64 = some 0xFFFFFFFFFFFFFFFF#64 ∧
      result (.divw 3#5 1#5 2#5) 0x1000#64 0x80000000#64 0xFFFFFFFF#64 = some 0xFFFFFFFFFFFFFFFF#64 := by decide

/-- M25 to M27. -/
theorem test_exec_divuw :
    result (.divuw 3#5 1#5 2#5) 0x1000#64 0xFFFFFFFF#64 0x2#64 = some 0x7FFFFFFF#64 ∧
      result (.divuw 3#5 1#5 2#5) 0x1000#64 0x5#64 0x0#64 = some 0xFFFFFFFFFFFFFFFF#64 ∧
      result (.divuw 3#5 1#5 2#5) 0x1000#64 0x80000000#64 0xFFFFFFFF#64 = some 0xFFFFFFFFFFFFFFFF#64 ∧
      resultPlain (.divuw 3#5 1#5 2#5) 0x1000#64 0x80000000#64 0xFFFFFFFF#64 = some 0x0#64 := by decide

/-- M28 to M30. -/
theorem test_exec_remw :
    result (.remw 3#5 1#5 2#5) 0x1000#64 0xFFFFFFFFFFFFFFF9#64 0x2#64 = some 0xFFFFFFFFFFFFFFFF#64 ∧
      result (.remw 3#5 1#5 2#5) 0x1000#64 0x5#64 0x0#64 = some 0xFFFFFFFFFFFFFFFF#64 ∧
      result (.remw 3#5 1#5 2#5) 0x1000#64 0x80000000#64 0xFFFFFFFF#64 = some 0xFFFFFFFFFFFFFFFF#64 := by decide

/-- M31 to M33. -/
theorem test_exec_remuw :
    result (.remuw 3#5 1#5 2#5) 0x1000#64 0xFFFFFFFF#64 0x10#64 = some 0xF#64 ∧
      result (.remuw 3#5 1#5 2#5) 0x1000#64 0x5#64 0x0#64 = some 0xFFFFFFFFFFFFFFFF#64 ∧
      result (.remuw 3#5 1#5 2#5) 0x1000#64 0x80000000#64 0xFFFFFFFF#64 = some 0xFFFFFFFFFFFFFFFF#64 ∧
      resultPlain (.remuw 3#5 1#5 2#5) 0x1000#64 0x80000000#64 0xFFFFFFFF#64 = some 0xFFFFFFFF80000000#64 := by decide

/-- J1, J2. -/
theorem test_exec_beq :
    nextPc (.beq 1#5 2#5 0x1FF8#13) 0x1010#64 0x5#64 0x5#64 = some 0x1008#64 ∧
      nextPc (.beq 1#5 2#5 0x1FF8#13) 0x1010#64 0x5#64 0x6#64 = some 0x1014#64 := by decide

/-- J3, J4, J20. -/
theorem test_exec_bne :
    nextPc (.bne 1#5 2#5 0x10#13) 0x100#64 0x1#64 0x2#64 = some 0x110#64 ∧
      nextPc (.bne 1#5 2#5 0x10#13) 0x100#64 0x7#64 0x7#64 = some 0x104#64 ∧
      nextPc (.bne 1#5 2#5 0x10#13) 0xFFFFFFFFFFFFFFF8#64 0x1#64 0x2#64 = some 0x8#64 := by decide

/-- J5, J6. -/
theorem test_exec_blt :
    nextPc (.blt 1#5 2#5 0x8#13) 0x1000#64 0xFFFFFFFFFFFFFFFF#64 0x0#64 = some 0x1008#64 ∧
      nextPc (.blt 1#5 2#5 0x8#13) 0x1000#64 0x0#64 0xFFFFFFFFFFFFFFFF#64 = some 0x1004#64 := by decide

/-- J7, J8. -/
theorem test_exec_bge :
    nextPc (.bge 1#5 2#5 0x8#13) 0x1000#64 0x3#64 0x3#64 = some 0x1008#64 ∧
      nextPc (.bge 1#5 2#5 0x8#13) 0x1000#64 0xFFFFFFFFFFFFFFFF#64 0x0#64 = some 0x1004#64 := by decide

/-- J9, J10. -/
theorem test_exec_bltu :
    nextPc (.bltu 1#5 2#5 0x8#13) 0x1000#64 0xFFFFFFFFFFFFFFFF#64 0x0#64 = some 0x1004#64 ∧
      nextPc (.bltu 1#5 2#5 0x8#13) 0x1000#64 0x0#64 0xFFFFFFFFFFFFFFFF#64 = some 0x1008#64 := by decide

/-- J11, J12. -/
theorem test_exec_bgeu :
    nextPc (.bgeu 1#5 2#5 0x8#13) 0x1000#64 0xFFFFFFFFFFFFFFFF#64 0x0#64 = some 0x1008#64 ∧
      nextPc (.bgeu 1#5 2#5 0x8#13) 0x1000#64 0x0#64 0x0#64 = some 0x1008#64 := by decide

/-- J13, J14. -/
theorem test_exec_jal :
    nextPc (.jal 1#5 0x20#21) 0x1000#64 0#64 0#64 = some 0x1020#64 ∧
      result (.jal 1#5 0x20#21) 0x1000#64 0#64 0#64 = some 0x1004#64 ∧
      nextPc (.jal 0#5 0x1FFFFC#21) 0x1000#64 0#64 0#64 = some 0xFFC#64 := by decide

/-- J15, J16. -/
theorem test_exec_jalr :
    nextPc (.jalr 5#5 6#5 1#12) 0x1000#64 0x2003#64 0#64 = some 0x2004#64 ∧
      nextPc (.jalr 5#5 6#5 1#12) 0x1000#64 0x2000#64 0#64 = some 0x2000#64 ∧
      result (.jalr 5#5 6#5 1#12) 0x1000#64 0x2000#64 0#64 = some 0x1004#64 := by decide

/-- L1, L3. -/
theorem test_exec_lb :
    loaded (.lb 5#5 10#5 0x0#12) 0x2000#64 = some 0xFFFFFFFFFFFFFF80#64 ∧
      loaded (.lb 5#5 10#5 0x7#12) 0x2000#64 = some 0xFFFFFFFFFFFFFF87#64 := by decide

/-- L4, L6, L7. -/
theorem test_exec_lh :
    loaded (.lh 5#5 10#5 0x0#12) 0x2000#64 = some 0xFFFFFFFFFFFF8180#64 ∧
      haltOf (accessed (.lh 5#5 10#5 0x2#12) 0x2000#64 0#64) = some (.misaligned .data, 0x1000#64, 0x2002#64) ∧
      haltOf (accessed (.lh 5#5 10#5 0x6#12) 0x2000#64 0#64) = some (.misaligned .data, 0x1000#64, 0x2006#64) := by decide

/-- L8, L10, L18, L19. -/
theorem test_exec_lw :
    loaded (.lw 5#5 10#5 0x4#12) 0x2000#64 = some 0xFFFFFFFF87868584#64 ∧
      loaded (.lw 5#5 10#5 0xFF0#12) 0x2014#64 = some 0xFFFFFFFF87868584#64 ∧
      loaded (.lw 5#5 10#5 0x4#12) 0xFFFFFFFF00002000#64 = some 0xFFFFFFFF87868584#64 ∧
      haltOf (accessed (.lw 5#5 10#5 0x2#12) 0x2000#64 0#64) = some (.misaligned .data, 0x1000#64, 0x2002#64) := by decide

/-- L11, L12. -/
theorem test_exec_ld :
    loaded (.ld 5#5 10#5 0x0#12) 0x2000#64 = some 0x8786858483828180#64 ∧
      haltOf (accessed (.ld 5#5 10#5 0x4#12) 0x2000#64 0#64) = some (.misaligned .data, 0x1000#64, 0x2004#64) := by decide

/-- L2. -/
theorem test_exec_lbu :
    loaded (.lbu 5#5 10#5 0x0#12) 0x2000#64 = some 0x80#64 := by decide

/-- L5. -/
theorem test_exec_lhu :
    loaded (.lhu 5#5 10#5 0x4#12) 0x2000#64 = some 0x8584#64 := by decide

/-- L9. -/
theorem test_exec_lwu :
    loaded (.lwu 5#5 10#5 0x4#12) 0x2000#64 = some 0x87868584#64 := by decide

/-- L13. -/
theorem test_exec_sb :
    afterStore (.sb 10#5 6#5 0x1#12) 0x2000#64 0x1234#64 = some 0x8786858483823480 := by decide

/-- L14, L17. -/
theorem test_exec_sh :
    afterStore (.sh 10#5 6#5 0x4#12) 0x2000#64 0xBEEF#64 = some 0x8786BEEF83828180 ∧
      haltOf (accessed (.sh 10#5 6#5 0x2#12) 0x2000#64 0#64) = some (.misaligned .data, 0x1000#64, 0x2002#64) := by decide

/-- L15. -/
theorem test_exec_sw :
    afterStore (.sw 10#5 6#5 0x4#12) 0x2000#64 0xFFFFFFFFDEADBEEF#64 = some 0xDEADBEEF83828180 := by decide

/-- L16. -/
theorem test_exec_sd :
    afterStore (.sd 10#5 6#5 0x0#12) 0x2000#64 0x123456789ABCDEF#64 = some 0x123456789ABCDEF := by decide

/-- Vectors N1 to N4 and Q5: each no-op class and the all-zero word, its register fields set. -/
theorem test_exec_noOps :
    isNoOp (.system 0x684044A#25) = true ∧ isNoOp (.system 0#25) = true ∧ isNoOp (.amo 0x200A45#25) = true ∧
      isNoOp (.miscMem 0x1FE000#25) = true ∧ isNoOp .zero = true := by decide

/-- Vector N5. -/
theorem test_exec_illegal :
    (match exec (.illegal 0xFFFFFFFF#32) (holding (.illegal 0xFFFFFFFF#32) 0x1000#64 0#64 0#64) with
      | .next t => t.log == [(0x1000#64, 0xFFFFFFFF#32)] && t.pc == 0x1004#64 && t.m == .noEffect 0x1000#64
      | _ => false) = true := by decide

/-! ## One cycle -/

/-- The host's placement, right after reset: each word runs in the next cycle. -/
theorem test_withFetchWord :
    (match step (State.reset.withFetchWord 32 0x00500093) with
      | .next t => t.m == .reg 0x1000#64 (some 1#5) 5#64
      | _ => false) = true ∧
      (match step (State.reset.withFetchWord 32 0x00452283) with
        | .next t => t.m == .load 0x1000#64 (some 5#5) 4#64 .b4 true
        | _ => false) = true ∧
      (match step (State.reset.withFetchWord 32 0xFFFFFFFF) with
        | .next t => t.log == [(0x1000#64, 0xFFFFFFFF#32)]
        | _ => false) = true := by decide

/-- Vector T2, first cycle from reset: `L2A` is `0x14000` and the walk goes on. -/
theorem test_step_walk_first :
    (match step { cold with latency := [true] } with
      | .next t => t.fs == .iTlb .second false && t.itlb.l2a == 0x14000#32 && t.d == .bubble && t.pc == 0x1000#64
      | _ => false) = true := by decide

/-- Vectors T2 and K4, second cycle: the slot is installed and the fill is deferred. -/
theorem test_step_walk_second :
    (match
        step { cold with fs := .iTlb .second false, itlb := { Tlb.empty with l2a := 0x14000#32 }, latency := [true] } with
      | .next t => t.fs == .iDeferred 0x9000#32 && t.itlb.slots == warmTlb.slots
      | _ => false) = true := by decide

/-- Vector K3, third cycle: the line is installed and its word is in `D`. -/
theorem test_step_fill :
    (match step { cold with fs := .iDeferred 0x9000#32, itlb := warmTlb, latency := [true] } with
      | .next t =>
        t.d == .instr 0x1000#64 0x00653023#32 0x1004#64 && t.pc == 0x1004#64 && t.fs == .fresh
          && t.icache.line 16 0 0 == { valid := true, tag := 0x240, data := lineAt 0x9000 16, dirty := false }
      | _ => false) = true := by decide

/-- Rules R338 and R64, for a fill in progress whose call is spent: `IDeferred`, or the status kept. -/
theorem test_fetch_spent :
    (match fetchStage cold.bp cold.pmem true { cold with fs := .iFill 0x9000#32 0 true } with
      | .next t => t.fs == .iDeferred 0x9000#32 && t.d == .bubble
      | _ => false) = true ∧
    (match
        fetchStage cold.bp cold.pmem true
          { cold with fs := .iFill 0x9000#32 0 true, params := { cold.params with spentFill := .keep } } with
      | .next t => t.fs == .iFill 0x9000#32 0 true && t.d == .bubble
      | _ => false) = true := by decide

/-- Vector L24: a fetch of a stored byte is refused. -/
theorem test_step_stored_word :
    (match step { warm with stored := [0x9003] } with
      | .refused r => r == .storedByte 0x9000
      | _ => false) = true := by decide

/-- Vector T12: a walk that leaves the backing store has no step. -/
theorem test_step_outside :
    (match step { warm with m := .load 0#64 none 0x40000#64 .b4 true, ms := .dTlb .second false,
                            dtlb := { Tlb.empty with l2a := 0xFFFFC040#32 } } with
      | .fault f => f == .outsideMemory 0xFFFFC040
      | _ => false) = true := by decide

/-- Vectors L20 to L22: the faults of an unmapped address, and alignment tested before translation. -/
theorem test_data_halts :
    haltOf (memoryStage { warm with m := .load 0x1008#64 none 0x400000#64 .b4 true, latency := [true] })
        = some (.pageFault .data, 0x1008#64, 0x400000#64) ∧
      haltOf (memoryStage { warm with m := .load 0x1008#64 none 0x4000#64 .b4 true, ms := .dTlb .second false,
                                      dtlb := { Tlb.empty with l2a := 0x14004#32 }, latency := [true] })
        = some (.pageFault .data, 0x1008#64, 0x4000#64) ∧
      haltOf (memoryStage { warm with m := .load 0x1008#64 none 0x400002#64 .b2 true })
        = some (.misaligned .data, 0x1008#64, 0x400002#64) := by decide

/-- Vector E6: the halt cycle commits `W` and writes the record; the latches stay. -/
theorem test_step_halt :
    (match step { warm with w := .retire 0x1004#64 (some 3#5) 1#64, pc := 0x1014#64,
                            m := .load 0x1008#64 (some 5#5) 0x400000#64 .b4 true, latency := [true] } with
      | .next t =>
        t.halt == .halted (.pageFault .data) 0x1008#64 0x400000#64 && t.readReg 3#5 == 1#64 && t.pc == 0x1014#64
          && t.m == .load 0x1008#64 (some 5#5) 0x400000#64 .b4 true
      | _ => false) = true := by decide

/-- The state of vectors K10 and K11: row 0 holds a dirty line with tag `0x501` (address `0xA020`). -/
def dirtyRow : State :=
  { warm with
    dcache := warm.dcache.setLine 0 0 { valid := true, tag := 0x501, data := List.replicate 8 (some 0x11#8), dirty := true }
    stored := [0xA020, 0xA021, 0xA022, 0xA023, 0xA024, 0xA025, 0xA026, 0xA027]
    latency := [true, true] }

/-- Vector K10: a load that misses writes the victim back first; the fill is the next cycle's. -/
theorem test_evict_load :
    (match memoryStage { dirtyRow with m := .load 0x1000#64 (some 5#5) 0x2000#64 .b8 true } with
      | .stall t => t.ms == .dFill 0xA000#32 0 false && t.pmem.readBytes 0xA020 8 == List.replicate 8 (some 0x11#8)
      | _ => false) = true := by decide

/-- Vector K11: an 8-byte store writes the victim back and installs its line in the same cycle. -/
theorem test_evict_store :
    (match memoryStage { dirtyRow with m := .store 0x1000#64 0x2000#64 .b8 0x0123456789ABCDEF#64 } with
      | .out t _ _ =>
        t.viewValue 0xA000#32 8 == 0x0123456789ABCDEF && (t.dcache.line 8 0 0).dirty
          && t.pmem.readBytes 0xA020 8 == List.replicate 8 (some 0x11#8)
      | _ => false) = true := by decide

/-- Vector K7: under write-through the backing store is written and the line stays clean. -/
theorem test_write_through :
    (match
        memoryStage
          { warm with params := { warm.params with dcachePolicy := .writeThrough }, latency := [true]
                      m := .store 0x1000#64 0x2004#64 .b4 0xDEADBEEF#64 } with
      | .out t _ _ =>
        !(t.dcache.line 8 0 0).dirty && t.viewValue 0xA000#32 8 == 0xDEADBEEF83828180
          && leValue (resolveBytes 0xA004 (t.pmem.readBytes 0xA004 4)) == 0xDEADBEEF
      | _ => false) = true := by decide

/-- Vectors K12 and K13: an invalid way is the victim, else under write-back a clean one. -/
theorem test_victim :
    pickVictim warm (victimCandidates true [Line.empty 8, { Line.empty 8 with valid := true }]) = (0, warm) ∧
      pickVictim warm (victimCandidates true
        [{ Line.empty 8 with valid := true, dirty := true }, { Line.empty 8 with valid := true }]) = (1, warm) := by
  decide

/-- Vectors H3 and H6: a source at distance 2 is forwarded from the memory stage's output; `x0` is not, unless the quirk is
on. -/
theorem test_forwarding :
    resolveOperand warm (.retire 0x1000#64 (some 1#5) 5#64) 1#5 = 5#64 ∧
      resolveOperand { warm with w := .retire 0x1000#64 (some 1#5) 5#64 } .bubble 1#5 = 5#64 ∧
      resolveOperand warm (.retire 0x1000#64 (some 0#5) 5#64) 0#5 = 0#64 ∧
      resolveOperand { warm with params := { warm.params with x0ForwardQuirk := true } }
        (.retire 0x1000#64 (some 0#5) 5#64) 0#5 = 5#64 := by decide

/-- Vector T1: the fields of `0x12345678`. -/
theorem test_fields :
    vpn 0x12345678#64 = 0x12345#20 ∧ superpage 0x12345678#64 = 0x48D1#18 ∧ vpnSlot 0x12345678#64 = 1#3 ∧
      superpageOffset 0x12345678#64 = 0x1678#14 ∧
      level1Address 0x10000#32 (superpage 0x12345678#64) = 0x10120#32 := by decide

/-- Vectors T9, T11 and T12. -/
theorem test_entries :
    pteNumber 0xFFFC0002#32 = 2#18 ∧ pteValid 0x7FFFFFFF#32 = false ∧
      level1Address 0xFFFFFFFC#32 (superpage 0x400000#64) = 0#32 ∧
      level2Address 0x8003FFFF#32 (superpage 0x40000#64) = 0xFFFFC040#32 := by decide

/-- Vectors K1 and K2. -/
theorem test_address_split :
    (lineOffset 16 0x9004#32, lineIndex 16 4 0x9010#32, lineTag 16 4 0x9040#32) = (4, 1, 0x241) ∧
      (lineIndex 8 4 0xA008#32, lineIndex 8 4 0xA020#32, lineTag 8 4 0xA020#32) = (1, 0, 0x501) := by decide

/-- A predictor after reset. -/
def bp0 : Vector BpEntry 32 := Vector.replicate 32 BpEntry.empty

/-- Vectors B1 to B3: the index, and the lookups at reset. -/
theorem test_predict_reset :
    bpIndex Config.defaults 0x1010#64 = 16#5 ∧ bpIndex { Config.defaults with bpIndexShift := 2 } 0x1010#64 = 4#5 ∧
      predict Config.defaults bp0 0x1010#64 = 0x1014#64 ∧ predict Config.defaults bp0 0#64 = 4#64 ∧
      predict { Config.defaults with bpPolicy := .btfnt } bp0 0#64 = 0#64 := by decide

/-- Vectors B4, B5, B7 and B9: where an update goes and what it writes. -/
theorem test_predictor_update :
    (bpResolve Config.defaults bp0 0x1010#64 0x1008#64 0x1008#64)[8] = ⟨0x1010#64, 0x1008#64, 3#2⟩ ∧
      (bpResolve { Config.defaults with bpUpdateIndex := .branch } bp0 0x1010#64 0x1008#64 0x1008#64)[16]
        = ⟨0x1010#64, 0x1008#64, 3#2⟩ ∧
      (bpResolve Config.defaults (bp0.set 8 ⟨0x1010#64, 0x1008#64, 3#2⟩) 0x1050#64 0x1008#64 0x1008#64)[8]
        = ⟨0x1010#64, 0x1008#64, 3#2⟩ ∧
      (bpResolve { Config.defaults with bpUpdateOn := .everyControl } bp0 0x1020#64 0x1024#64 0x1040#64)[0]
        = ⟨0x1020#64, 0x1040#64, 0#2⟩ := by decide

/-! ## Witnesses: for each statement with hypotheses, a concrete state and operands that meet them together -/

theorem next_exists {r : Result} (h : isNext r = true) : ∃ t, r = .next t := ⟨_, next_of h⟩

/-- A running pipeline on S0 with warm units: `SD x6, 0(x10)` in `M`, `LD x5, 0(x10)` in `X`, `ADDI x1, x0, 5` in `D`, and a
backing store that fills the physical space. -/
def pipe : State :=
  { warm with
    regs := (warm.regs.set 10 0x2000#64).set 6 0x0123456789ABCDEF#64
    pc := 0x100C#64
    d := .instr 0x1008#64 0x00500093#32 0x100C#64
    x := .instr (latched (.ld 5#5 10#5 0#12) 0x1004#64 0x2000#64 0#64)
    m := .store 0x1000#64 0x2000#64 .b8 0x0123456789ABCDEF#64
    params := { warm.params with pmemSize := 2 ^ 32 }
    latency := [true, true, true, true] }

/-- `pipe` one cycle on: the load is in `M`. -/
def pipe1 : State := nextState cold (step pipe)

/-- The load of `pipe` in `M`, over an empty pipeline. -/
def loading : State :=
  { pipe with d := .bubble, x := .bubble, m := .load 0x1004#64 (some 5#5) 0x2000#64 .b8 true, pc := 0x1000#64 }

/-- The same under write-through. -/
def loadingThrough : State := { loading with params := { loading.params with dcachePolicy := .writeThrough } }

/-- A load whose D-TLB walk begins: the memory stage stalls. -/
def stalling : State := { loading with dtlb := Tlb.empty }

theorem inv_of {s : State} (h : (s.memoryInv && s.decodedX && s.statusOfM && s.statusOfPc) = true) : Inv s := by
  simpa [Machine.Inv, and_assoc] using h

theorem pipe_inv : Inv pipe := inv_of (by decide)

theorem loading_inv : Inv loading := inv_of (by decide)

theorem pipe_steps : step pipe = .next pipe1 := next_of (by decide)

theorem stores_of {s : State} {pa : PAddr} {pc va : Word} {size : AccessSize} {value : Word} (hr : s.running = true)
    (ho : isOut (memoryStage s.writeback) = true) (ha : s.writeback.dataAddress = some pa)
    (hm : s.m = .store pc va size value) : s.storesAt pa size value := ⟨⟨hr, out_of ho⟩, ha, _, _, hm⟩

theorem loads_of {s : State} {pa : PAddr} {pc va : Word} {rd : Option Reg} {size : AccessSize} {signed : Bool}
    (hr : s.running = true) (ho : isOut (memoryStage s.writeback) = true) (ha : s.writeback.dataAddress = some pa)
    (hm : s.m = .load pc rd va size signed) : s.loadsAt pa rd size signed := ⟨⟨hr, out_of ho⟩, ha, _, _, hm⟩

theorem pipe_stores : pipe.storesAt 0xA000#32 .b8 0x0123456789ABCDEF#64 :=
  stores_of (by decide) (by decide) (by decide) rfl

theorem loading_stores_nothing (pa : PAddr) (size : AccessSize) (value : Word) : ¬loading.storesAt pa size value := by
  rintro ⟨_, _, _, _, h⟩
  cases h

theorem pipe_translation : TranslationInv pipe := by
  refine ⟨?_, ?_, ?_, ?_, ?_, ?_⟩
  · unfold State.tlbAgrees; decide
  · unfold State.tlbAgrees; decide
  · intro _ h; cases h
  · intro _ _ _ h; cases h
  · rintro _ (h | ⟨_, _, h⟩) <;> cases h
  · rintro _ _ _ _ (h | ⟨_, _, _, h⟩ | ⟨_, _, h⟩ | ⟨_, h⟩) <;> cases h

theorem pipe_words : FetchedWordInv pipe := by
  refine ⟨?_, ?_⟩
  · intro pc word predPc h
    cases h
    exact fun _ => ⟨0x9008#32, by decide, fun _ => by decide⟩
  · intro v h
    cases h
    exact fun _ => ⟨0x9004#32, by decide, fun _ => by decide⟩

/-! ### The accesses of a cycle -/

/-- The TLB of a side gives an address: a check. -/
def tlbGivesB (s : State) (side : Side) (va : Word) (pa : PAddr) : Bool :=
  let slot := (s.tlb side).slots[(va.extractLsb' 14 3).toNat]
  slot.valid && slot.tag == va.extractLsb' 14 18 && pa == slot.ppn ++ va.extractLsb' 0 14

theorem gives_of {s : State} {side : Side} {va : Word} {pa : PAddr} (h : tlbGivesB s side va pa = true) :
    s.tlbGives side va pa := by
  simpa [tlbGivesB, State.tlbGives, and_assoc] using h

theorem reaches_idle {s : State} {va : Word} {pa : PAddr} (hi : s.ms = .idle) (h : tlbGivesB s .data va pa = true) :
    s.reachesCache va s pa false := .inl ⟨rfl, rfl, .inr ⟨.inl hi, gives_of h⟩⟩

theorem reaches_deferred {s : State} {va : Word} {pa : PAddr} (h : s.ms = .dDeferred pa) :
    s.reachesCache va s pa false := .inl ⟨rfl, rfl, .inl h⟩

/-- The walk finishes, and a check holds of the state and address it gives. -/
def doneWith (p : State → PAddr → Bool) (r : TransResult) : Bool :=
  match r with
  | .done t pa => p t pa
  | _ => false

theorem doneWith_of {p : State → PAddr → Bool} {r : TransResult} (h : doneWith p r = true) :
    ∃ t pa, r = .done t pa ∧ p t pa = true := by
  cases r <;> first | exact ⟨_, _, rfl, h⟩ | cases h

/-- The data cache's way that holds an address's line. -/
def dHit (s : State) (pa : PAddr) : Option Nat := hitWay (s.dcache.ways (s.dIndex pa)) (s.dTag pa)

/-- The instruction cache's way that holds an address's line. -/
def iHit (s : State) (pa : PAddr) : Option Nat := hitWay (s.icache.ways (s.iIndex pa)) (s.iTag pa)

/-- A walk of the access in `M` that finishes in this cycle, with its call, and a check of where the access arrives. -/
theorem reaches_walked {p : State → PAddr → Bool} {s : State} {va : Word} {step : WalkStep} {issued : Bool}
    (hi : s.ms = .dTlb step issued)
    (h : doneWith p (translate .data s.pmem false (some (step, issued)) va s) = true) :
    ∃ u pa, s.reachesCache va u pa true ∧ p u pa = true := by
  obtain ⟨u, pa, ht, hp⟩ := doneWith_of h
  exact ⟨u, pa, .inr ⟨rfl, _, .inr ⟨_, _, hi, rfl⟩, ht⟩, hp⟩

/-- The victim way a miss picks. -/
def victimWay (s : State) (pa : PAddr) : Nat :=
  (pickVictim s (victimCandidates s.writeBack (s.dcache.ways (s.dIndex pa)))).1

theorem chooses_of {s : State} {va : Word} {pa : PAddr} (hr : s.reachesCache va s pa false) (hm : dHit s pa = none) :
    ∃ t, s.choosesVictim va pa (victimWay s pa) t := ⟨_, hr, hm, rfl⟩

theorem fills_of {s : State} {va : Word} {pa : PAddr} (hr : s.reachesCache va s pa false) (hm : dHit s pa = none)
    (he : s.mustEvict pa (victimWay s pa) = false) : ∃ t, s.fillsWay va pa (victimWay s pa) t := by
  obtain ⟨t, h⟩ := chooses_of hr hm
  exact ⟨t, .inl ⟨h, he⟩⟩

theorem writesBack_of {s : State} {va : Word} {pa : PAddr} (hr : s.reachesCache va s pa false) (hm : dHit s pa = none)
    (he : s.mustEvict pa (victimWay s pa) = true) : ∃ victimPa t, s.writesBack va pa (victimWay s pa) victimPa t := by
  obtain ⟨t, h⟩ := chooses_of hr hm
  exact ⟨_, t, .inl ⟨h, he, rfl⟩⟩

/-- The state of a completed fill at an address, the one call answered. -/
def filled (s : State) (pa : PAddr) : State :=
  { (pickVictim s (victimCandidates s.writeBack (s.dcache.ways (s.dIndex pa)))).2.answered s.latency.tail with
    dcache :=
      s.dcache.setLine (s.dIndex pa) (victimWay s pa)
        { valid := true, tag := s.dTag pa, data := s.pmem.readBytes (pa.toNat / 8 * 8) 8, dirty := false } }

theorem completes_of {s : State} {va : Word} {pa : PAddr} (hr : s.reachesCache va s pa false) (hm : dHit s pa = none)
    (he : s.mustEvict pa (victimWay s pa) = false) (hd : ∀ pc value, s.m ≠ .store pc va .b8 value)
    (hb : pa.toNat / 8 * 8 + 8 ≤ s.params.pmemSize) (hl : s.latency = true :: s.latency.tail) :
    s.fillCompletes va pa (victimWay s pa) (filled s pa) :=
  ⟨_, _, .inl ⟨⟨hr, hm, rfl⟩, he⟩, hd, hb, hl, rfl⟩

/-- `pipe` under write-through. -/
def pipeThrough : State := { pipe with params := { pipe.params with dcachePolicy := .writeThrough } }

/-- The second step of the walk of superpage 0, for whichever access is in `M`. -/
def walking (s : State) : State :=
  { s with ms := .dTlb .second true, dtlb := { Tlb.empty with l2a := 0x14000#32 } }

/-- An 8-byte store that misses: its set's one way holds a clean line. -/
def missing (s : State) : State := { s with m := .store 0x1000#64 0x2020#64 .b8 1#64 }

/-- A load that misses. -/
def missingLoad : State := { loading with m := .load 0x1004#64 none 0x2020#64 .b2 true }

/-- A byte store that misses under write-through. -/
def missingByte : State := { pipeThrough with m := .store 0x1000#64 0x2020#64 .b1 1#64 }

/-- A two-way data cache of one set, both of its lines dirty. -/
def twoWays : State :=
  { pipe with
    params := { pipe.params with dcacheWays := 2, dcacheRows := 1 }
    victims := [1]
    dcache :=
      [[{ valid := true, tag := 0x1401, data := lineAt 0xA008 8, dirty := true },
        { valid := true, tag := 0x1402, data := lineAt 0xA010 8, dirty := true }]] }

/-! ### Encoding -/

theorem witness_DecodeEncodeRoundTrip : (Instr.bgeu 31#5 0#5 0x1FFE#13).wf = true := by decide

theorem witness_BytesRoundTrip : (Instr.jal 1#5 0x100000#21).wf = true ∧ ([0#8, 0#8, 0#8] : List Byte).length < 4 := by decide

theorem witness_RegisterFields :
    dest (decodeWord 0x002081B3#32) = some 3#5 ∧ src1 (decodeWord 0x002081B3#32) = some 1#5 ∧
      src2 (decodeWord 0x002081B3#32) = some 2#5 ∧ decodeWord 0xFFFFFFFF#32 = .illegal 0xFFFFFFFF#32 ∧
      decodeWord 0x002081B3#32 ≠ .illegal 0x002081B3#32 ∧ 0x002081B3#32 ≠ 0#32 := by decide

/-! ### Execution: an instruction in `X`, at boundary operands -/

/-- `X` with the operands of the sentinel corner. -/
def corner : State := holding (.div 3#5 1#5 2#5) 0xFFFFFFFFFFFFFFFC#64 min64 ones64

theorem corner_x : corner.x = .instr (latched (.div 3#5 1#5 2#5) 0xFFFFFFFFFFFFFFFC#64 min64 ones64) := rfl

theorem witness_ImmediateResults : ∃ v, corner.x = .instr v := ⟨_, corner_x⟩
theorem witness_OpResults : ∃ v, corner.x = .instr v := ⟨_, corner_x⟩
theorem witness_WordFormResults :
    (∃ v, corner.x = .instr v) ∧ (0x0200909B#32 : Word32).extractLsb' 0 7 = 0x1B#7 ∧
      (0x0200909B#32 : Word32).extractLsb' 12 3 = 0b001#3 ∧ (0x0200909B#32 : Word32).getLsbD 25 = true :=
  ⟨⟨_, corner_x⟩, by decide⟩
theorem witness_MultiplyResults : ∃ v, corner.x = .instr v := ⟨_, corner_x⟩
theorem witness_DivideResults : ∃ v, corner.x = .instr v := ⟨_, corner_x⟩
theorem witness_DivisionLaws : ∃ v, corner.x = .instr v := ⟨_, corner_x⟩
theorem witness_ProductHalves : ∃ v, corner.x = .instr v := ⟨_, corner_x⟩
theorem witness_BranchResults : (∃ v, corner.x = .instr v) ∧ (0x1000#13 : BitVec 13).getLsbD 0 = false :=
  ⟨⟨_, corner_x⟩, by decide⟩
theorem witness_JumpResults : (∃ v, corner.x = .instr v) ∧ (0x100000#21 : BitVec 21).getLsbD 0 = false :=
  ⟨⟨_, corner_x⟩, by decide⟩
theorem witness_NoOpClasses : ∃ v, corner.x = .instr v := ⟨_, corner_x⟩
theorem witness_IllegalInstruction : ∃ v, corner.x = .instr v := ⟨_, corner_x⟩
theorem witness_LoadDescriptors : ∃ v, corner.x = .instr v := ⟨_, corner_x⟩
theorem witness_StoreDescriptors : ∃ v, corner.x = .instr v := ⟨_, corner_x⟩

/-! ### Decode -/

theorem witness_DecodeResolvesOperands :
    pipe.d = .instr 0x1008#64 0x00500093#32 0x100C#64 ∧
      ∀ u r, pipe.x = .instr u → u.rd = some r →
        src1 (decodeWord 0x00500093#32) ≠ some r ∧ src2 (decodeWord 0x00500093#32) ≠ some r := by
  refine ⟨rfl, ?_⟩
  rintro u r ⟨⟩ h
  cases h
  decide

/-- `ADD x3, x1, x2` in `D` behind `ADDI x1, x0, 5` in `X`. -/
def hazard : State :=
  { warm with
    x := .instr (latched (.addi 1#5 0#5 5#12) 0x1000#64 0#64 0#64)
    d := .instr 0x1004#64 0x002081B3#32 0x1008#64
    pc := 0x1008#64 }

/-- The same under `EX_FORWARD`, with the execute stage's register write in `M`. -/
def hazardForward : State :=
  { hazard with params := { hazard.params with exForward := true }, m := .reg 0x1000#64 (some 1#5) 5#64 }

theorem witness_HazardTest :
    hazard.d = .instr 0x1004#64 0x002081B3#32 0x1008#64 ∧ dest (.addi 1#5 0#5 5#12) = some 1#5 ∧
      src1 (decodeWord 0x002081B3#32) = some 1#5 ∧ hazard.params.exForward = false ∧
      hazardForward.d = hazard.d ∧ hazardForward.params.exForward = true ∧
      hazardForward.m = .reg 0x1000#64 (some 1#5) 5#64 := by decide

/-- A token. -/
def tokenInfo : FaultInfo := { reason := .misaligned .instr, va := 0x402#64 }

theorem witness_TokensPassAndHalt :
    ({ warm with d := .token 0x402#64 tokenInfo } : State).d = .token 0x402#64 tokenInfo ∧
      ({ warm with x := .token 0x402#64 tokenInfo } : State).x = .token 0x402#64 tokenInfo ∧
      ({ warm with m := .token 0x402#64 tokenInfo } : State).m = .token 0x402#64 tokenInfo := ⟨rfl, rfl, rfl⟩

/-! ### The step and execute -/

theorem witness_StepRunsInstruction :
    ∃ s1 s2 mout spent v, pipe.running = true ∧ memoryStage pipe.writeback = .out s1 mout spent ∧
      pipe.x = .instr v ∧ v.op = .ld 5#5 10#5 0#12 ∧ exec (.ld 5#5 10#5 0#12) s1 = .next s2 := by
  obtain ⟨s1, mout, spent, h⟩ := out_of (r := memoryStage pipe.writeback) (by decide)
  have hx : isNext (match memoryStage pipe.writeback with
    | .out s _ _ => exec (.ld 5#5 10#5 0#12) s
    | _ => .refused (.storedByte 0)) = true := by decide
  rw [h] at hx
  exact ⟨s1, _, mout, spent, _, by decide, h, rfl, rfl, next_of hx⟩

theorem witness_PlacedWordRuns : (32 : Nat) ≤ 32 := by decide

/-- `JAL x0, 8` in `X`, predicted to fall through, with the next instruction in `D`. -/
def jumping : State :=
  { warm with
    x := .instr (latched (.jal 0#5 8#21) 0x1000#64 0#64 0#64)
    d := .instr 0x1004#64 0x00053283#32 0x1008#64
    pc := 0x1008#64 }

theorem witness_RedirectKills :
    jumping.running = true ∧ (∃ s1 mout spent, memoryStage jumping.writeback = .out s1 mout spent) ∧
      jumping.x = .instr (latched (.jal 0#5 8#21) 0x1000#64 0#64 0#64) ∧ (∃ t, step jumping = .next t) ∧
      scalarNextPc (.jal 0#5 8#21) 0x1000#64 0#64 0#64 ≠ 0x1004#64 :=
  ⟨by decide, out_of (by decide), rfl, next_exists (by decide), by decide⟩

theorem witness_RewindRefetches :
    hazard.running = true ∧ (∃ s1 mout spent, memoryStage hazard.writeback = .out s1 mout spent) ∧
      hazard.x = .instr (latched (.addi 1#5 0#5 5#12) 0x1000#64 0#64 0#64) ∧
      hazard.d = .instr 0x1004#64 0x002081B3#32 0x1008#64 ∧ (∃ t, step hazard = .next t) ∧
      scalarNextPc (.addi 1#5 0#5 5#12) 0x1000#64 0#64 0#64 = 0x1004#64 ∧
      src1 (decodeWord 0x002081B3#32) = some 1#5 ∧ hazard.params.exForward = false :=
  ⟨by decide, out_of (by decide), rfl, rfl, next_exists (by decide), by decide, by decide, by decide⟩

/-! ### Fetch -/

theorem witness_FetchFaultTokens :
    (cold.fs ≠ .faulted ∧ ({ cold with pc := 0x402#64 } : State).pc.extractLsb' 0 2 ≠ 0#2) ∧
      (∃ s', translate .instr cold.pmem false none 0x400000#64 { cold with pc := 0x400000#64, latency := [true] }
        = .pageFault s') ∧
      (∃ s', translate .instr cold.pmem false (some (.second, true)) 0x4000#64
        { cold with pc := 0x4000#64, fs := .iTlb .second true, itlb := { Tlb.empty with l2a := 0x14004#32 },
                    latency := [true] } = .pageFault s') ∧
      ({ cold with fs := .faulted } : State).fs = .faulted :=
  ⟨by decide, fault_of (by decide), fault_of (by decide), rfl⟩

theorem witness_FetchServesWord :
    storedTouches [0x9003] 0x9000 4 = true ∧ storedTouches [0x8FFF, 0x9004] 0x9000 4 = false ∧
      warm.pc.extractLsb' 0 2 = 0#2 ∧ warm.fs = .fresh ∧ warm.itlb.slots[0].valid = true ∧
      warm.itlb.slots[0].tag = warm.pc.extractLsb' 14 18 ∧
      0x9000#32 = warm.itlb.slots[0].ppn ++ warm.pc.extractLsb' 0 14 ∧
      hitWay (warm.icache.ways (warm.iIndex 0x9000#32)) (warm.iTag 0x9000#32) = some 0 := by decide

theorem witness_FetchStalls :
    cold.pc.extractLsb' 0 2 = 0#2 ∧
      (∃ s' step issued, translate .instr cold.pmem false none cold.pc { cold with latency := [false] }
        = .retry s' step issued) ∧
      (∃ s' pa, translate .instr cold.pmem false (some (.second, true)) cold.pc
            { cold with fs := .iTlb .second true, itlb := { Tlb.empty with l2a := 0x14000#32 }, latency := [true] }
          = .done s' pa ∧ (iHit s' pa).isNone = true) ∧
      iHit cold 0x9000#32 = none ∧ (0x9000#32 : PAddr).toNat / 16 * 16 + 16 ≤ cold.params.pmemSize ∧
      ({ cold with fs := .iDeferred 0x9000#32 } : State).fetchReaches 0x9000#32 ∧
      ({ cold with itlb := warmTlb, latency := [false] } : State).fetchReaches 0x9000#32 ∧
      ({ cold with fs := .iFill 0x9000#32 0 true } : State).fs = .iFill 0x9000#32 0 true :=
  ⟨by decide, retry_of (by decide), doneWith_of (p := fun s pa => (iHit s pa).isNone) (by decide), by decide, by decide,
    .inl rfl, .inr ⟨.inl rfl, gives_of (by decide)⟩, rfl⟩

theorem witness_FirstFetchFromReset :
    cold.params.wf = true ∧ cold.pc.extractLsb' 0 2 = 0#2 ∧ cold.tableAddress cold.pc = some 0x9000#32 ∧
      (level1Address cold.ptbr (superpage cold.pc)).toNat + 4 ≤ cold.params.pmemSize ∧
      (level2Address (cold.pte1 (superpage cold.pc)) (superpage cold.pc)).toNat + 4 ≤ cold.params.pmemSize ∧
      (0x9000#32 : PAddr).toNat / 16 * 16 + 16 ≤ cold.params.pmemSize := by decide

/-! ### Predictor and translation -/

theorem witness_PredictorLookup :
    Config.defaults.bpPolicy = .counter2 ∧ ({ Config.defaults with bpPolicy := .btfnt } : Params).bpPolicy = .btfnt :=
  ⟨rfl, rfl⟩

theorem witness_TranslationSteps :
    (warm.itlb.slots[0].valid = true ∧ warm.itlb.slots[0].tag = (0x1000#64 : Word).extractLsb' 14 18) ∧
      ¬(cold.itlb.slots[0].valid = true ∧ cold.itlb.slots[0].tag = (0x1000#64 : Word).extractLsb' 14 18) ∧
      storedTouches cold.stored (0x10000#32 : PAddr).toNat 4 = false ∧
      (0x10000#32 : PAddr).toNat + 4 ≤ cold.params.pmemSize ∧ (0x14000#32 : PAddr).toNat + 4 ≤ cold.params.pmemSize ∧
      ({ cold with latency := [true] } : State).latency = true :: [] ∧
      ({ cold with latency := [false] } : State).latency = false :: [] := by decide

theorem witness_TlbIdempotent :
    (∃ t pa, translate .data cold.pmem false (some (.second, false)) 0x1000#64
        { cold with dtlb := { Tlb.empty with l2a := 0x14000#32 }, latency := [true] } = .done t pa) ∧
      (0xFFFFFFFF00003FFF#64 : Word).extractLsb' 14 18 = (0x1000#64 : Word).extractLsb' 14 18 :=
  ⟨done_of (by decide), by decide⟩

theorem witness_SlotMismatchUnreachable :
    (∃ s : State, s.d = .token 0x402#64 tokenInfo ∧ s.noMismatch ∧ ∃ t, step s = .next t) := by
  refine ⟨{ warm with d := .token 0x402#64 tokenInfo, pc := 0x402#64, fs := .faulted }, rfl, ⟨?_, ?_, ?_, ?_⟩, ?_⟩
  · rintro _ _ ⟨⟩; decide
  · intro _ _ h; cases h
  · intro _ _ h; cases h
  · intro _ _ h; cases h
  · exact next_exists (by decide)

/-! ### The memory stage -/

theorem witness_VictimChoice :
    ∃ way t, pickVictim warm (victimCandidates true
      [{ Line.empty 8 with valid := true, dirty := true }, { Line.empty 8 with valid := true }]) = (way, t) :=
  ⟨_, _, rfl⟩

theorem witness_MemoryHalts :
    (1 < AccessSize.b2.bytes ∧ ((0x2002#64 : Word).toNat % 8 % 4 ≠ 0 ∨ 8 < (0x2002#64 : Word).toNat % 8 + 2)) ∧
      (1 < AccessSize.b8.bytes ∧ ((0x2004#64 : Word).toNat % 8 % 4 ≠ 0 ∨ 8 < (0x2004#64 : Word).toNat % 8 + 8)) ∧
      ¬(1 < AccessSize.b1.bytes ∧ ((0x2007#64 : Word).toNat % 8 % 4 ≠ 0 ∨ 8 < (0x2007#64 : Word).toNat % 8 + 1)) ∧
      (∃ t, translate .data warm.pmem false none 0x400000#64
        { warm with m := .load 0x1008#64 none 0x400000#64 .b4 true, latency := [true] } = .pageFault t) ∧
      ∃ t, translate .data warm.pmem false (some (.second, true)) 0x4000#64
        { warm with m := .store 0x1008#64 0x4000#64 .b4 0#64, ms := .dTlb .second true,
                    dtlb := { Tlb.empty with l2a := 0x14004#32 }, latency := [true] } = .pageFault t :=
  ⟨by decide, by decide, by decide, fault_of (by decide), fault_of (by decide)⟩

/-- A load and stores under both policies that hit at once, from `DDeferred`, at the end of a walk, in `DWriteThrough`, and a
load and a byte store whose fill completes. -/
theorem witness_HitCompletes :
    ¬(1 < AccessSize.b8.bytes ∧ ((0x2000#64 : Word).toNat % 8 % 4 ≠ 0 ∨ 8 < (0x2000#64 : Word).toNat % 8 + 8)) ∧
      loading.m = .load 0x1004#64 (some 5#5) 0x2000#64 .b8 true ∧
      pipe.m = .store 0x1000#64 0x2000#64 .b8 0x0123456789ABCDEF#64 ∧ pipeThrough.m = pipe.m ∧
      pipe.params.dcachePolicy = .writeBack ∧ pipeThrough.params.dcachePolicy = .writeThrough ∧
      (0xA000#32 : PAddr).toNat + AccessSize.b8.bytes ≤ pipeThrough.params.pmemSize ∧
      pipeThrough.latency = true :: [true, true, true] ∧ dHit pipe 0xA000#32 = some 0 ∧
      loading.reachesCache 0x2000#64 loading 0xA000#32 false ∧ pipe.reachesCache 0x2000#64 pipe 0xA000#32 false ∧
      pipeThrough.reachesCache 0x2000#64 pipeThrough 0xA000#32 false ∧
      (let s : State := { pipe with ms := .dDeferred 0xA000#32 };
        s.reachesCache 0x2000#64 s 0xA000#32 false) ∧
      (∃ u pa, (walking loading).reachesCache 0x2000#64 u pa true ∧ (dHit u pa == some 0) = true) ∧
      (∃ u pa, (walking pipe).reachesCache 0x2000#64 u pa true ∧ (dHit u pa == some 0) = true) ∧
      (∃ u pa, (walking pipeThrough).reachesCache 0x2000#64 u pa true ∧ (dHit u pa == some 0) = true) ∧
      ({ pipeThrough with ms := .dWriteThrough 0xA000#32 true } : State).ms = .dWriteThrough 0xA000#32 true ∧
      (missingLoad.fillCompletes 0x2020#64 0xA020#32 0 (filled missingLoad 0xA020#32) ∧
        dHit (filled missingLoad 0xA020#32) 0xA020#32 = some 0) ∧
      (missingByte.fillCompletes 0x2020#64 0xA020#32 0 (filled missingByte 0xA020#32) ∧
        dHit (filled missingByte 0xA020#32) 0xA020#32 = some 0) :=
  ⟨by decide, rfl, rfl, rfl, rfl, rfl, by decide, rfl, by decide, reaches_idle rfl (by decide),
    reaches_idle rfl (by decide), reaches_idle rfl (by decide), reaches_deferred rfl,
    reaches_walked (p := fun u pa => dHit u pa == some 0) rfl (by decide),
    reaches_walked (p := fun u pa => dHit u pa == some 0) rfl (by decide),
    reaches_walked (p := fun u pa => dHit u pa == some 0) rfl (by decide), rfl,
    ⟨completes_of (reaches_idle rfl (by decide)) (by decide) (by decide) (fun _ _ h => by cases h) (by decide) rfl,
      by decide⟩,
    completes_of (reaches_idle rfl (by decide)) (by decide) (by decide) (fun _ _ h => by cases h) (by decide) rfl,
    by decide⟩

/-- A clean victim, from a D-TLB hit and from `DDeferred`; a dirty victim in a two-way set, in its first cycle and a later
one; write-through. -/
theorem witness_DoublewordStoreSkipsFill :
    ((0x2020#64 : Word).toNat % 8 = 0 ∧ (0xA020#32 : PAddr).toNat % 8 = 0 ∧
        victimWay (missing pipe) 0xA020#32 < ((missing pipe).dcache.ways ((missing pipe).dIndex 0xA020#32)).length ∧
        victimWay (missing twoWays) 0xA020#32
          < ((missing twoWays).dcache.ways ((missing twoWays).dIndex 0xA020#32)).length) ∧
      (missing pipe).params.dcachePolicy = .writeBack ∧
      (∃ t, (missing pipe).fillsWay 0x2020#64 0xA020#32 (victimWay (missing pipe) 0xA020#32) t) ∧
      (let s : State := { missing pipe with ms := .dDeferred 0xA020#32 };
        ∃ t, s.fillsWay 0x2020#64 0xA020#32 (victimWay s 0xA020#32) t) ∧
      (missing twoWays).params.dcachePolicy = .writeBack ∧
      (∃ victimPa t, (missing twoWays).writesBack 0x2020#64 0xA020#32 (victimWay (missing twoWays) 0xA020#32) victimPa t) ∧
      (let s : State := { missing twoWays with ms := .dEvict 0xA020#32 1 0xA010#32 true };
        s.writesBack 0x2020#64 0xA020#32 1 0xA010#32 s ∧
          (0xA010#32 : PAddr).toNat + (s.dLine 0xA020#32 1).data.length ≤ s.params.pmemSize ∧
          s.latency = true :: [true, true, true]) ∧
      (missing pipeThrough).params.dcachePolicy = .writeThrough ∧
      (∃ t, (missing pipeThrough).fillsWay 0x2020#64 0xA020#32 (victimWay (missing pipeThrough) 0xA020#32) t) ∧
      (0xA020#32 : PAddr).toNat + 8 ≤ (missing pipeThrough).params.pmemSize :=
  ⟨by decide, rfl, fills_of (reaches_idle rfl (by decide)) (by decide) (by decide),
    fills_of (reaches_deferred rfl) (by decide) (by decide), rfl,
    writesBack_of (reaches_idle rfl (by decide)) (by decide) (by decide),
    ⟨.inr ⟨rfl, by unfold State.dMisses; decide, _, rfl⟩, by decide, rfl⟩, rfl,
    fills_of (reaches_idle rfl (by decide)) (by decide) (by decide), by decide⟩

theorem witness_MemoryViewFollowsStores :
    (Inv pipe ∧ pipe.running = true ∧ step pipe = .next pipe1 ∧ pipe.storesAt 0xA000#32 .b8 0x0123456789ABCDEF#64) ∧
      Inv loading ∧ loading.running = true ∧ (∃ t, step loading = .next t) ∧
        ∀ pa size value, ¬loading.storesAt pa size value :=
  ⟨⟨pipe_inv, by decide, pipe_steps, pipe_stores⟩, loading_inv, by decide, next_exists (by decide),
    loading_stores_nothing⟩

theorem witness_LoadDeliversView :
    Inv loading ∧ (∃ t, step loading = .next t) ∧ loading.loadsAt 0xA000#32 (some 5#5) .b8 true :=
  ⟨loading_inv, next_exists (by decide), loads_of (by decide) (by decide) (by decide) rfl⟩

theorem pipe_after_one : pipe.after 1 = some pipe1 := by
  show (match step pipe with
    | .next u => some u
    | .fault _ => none
    | .refused _ => none) = some pipe1
  rw [pipe_steps]

theorem pipe1_m : pipe1.m = .load 0x1004#64 (some 5#5) 0x2000#64 .b8 true := by decide

theorem witness_StoreThenLoad :
    Inv pipe ∧ pipe.after 0 = some pipe ∧ pipe.storesAt 0xA000#32 .b8 0x0123456789ABCDEF#64 ∧ (0 : Nat) < 1 ∧
      pipe.after 1 = some pipe1 ∧ pipe1.loadsAt 0xA000#32 (some 5#5) .b8 true ∧ (∃ c, step pipe1 = .next c) ∧
      ∀ k u q n w, 0 < k → k < 1 → pipe.after k = some u → u.storesAt q n w →
        ∀ x, inAccess 0xA000#32 AccessSize.b8.bytes x = true → inAccess q n.bytes x = false :=
  ⟨pipe_inv, rfl, pipe_stores, by decide, pipe_after_one,
    loads_of (by decide) (by decide) (by decide) pipe1_m, next_exists (by decide),
    fun _ _ _ _ _ h h' => absurd h (by omega)⟩

/-- An eviction that completes: the backing store changes. -/
def evicting : State := { dirtyRow with m := .load 0x1000#64 (some 5#5) 0x2000#64 .b8 true }

/-- The same with a backing store that fills the physical space. -/
def evictingWide : State :=
  { evicting with params := { evicting.params with pmemSize := 2 ^ 32 }, latency := [true, true, true, true] }

theorem evictingWide_translation : TranslationInv evictingWide := by
  refine ⟨?_, ?_, ?_, ?_, ?_, ?_⟩
  · unfold State.tlbAgrees; decide
  · unfold State.tlbAgrees; decide
  · intro _ h; cases h
  · intro _ _ _ h; cases h
  · rintro _ (h | ⟨_, _, h⟩) <;> cases h
  · rintro _ _ _ _ (h | ⟨_, _, _, h⟩ | ⟨_, _, h⟩ | ⟨_, h⟩) <;> cases h

/-- A load whose victim is dirty, after stores that left the page table alone. -/
theorem witness_AccessCompletes :
    Inv evictingWide ∧ TranslationInv evictingWide ∧ evictingWide.running = true ∧
      evictingWide.m.access = some (0x2000#64, .b8) ∧ evictingWide.params.pmemSize = 2 ^ 32 ∧
      evictingWide.ptbr.toNat % 4 = 0 ∧ evictingWide.tableClean (superpage 0x2000#64) = true ∧
      evictingWide.stored ≠ [] ∧ evictingWide.latency = true :: true :: true :: true :: [] :=
  ⟨inv_of (by decide), evictingWide_translation, by decide, rfl, rfl, by decide, by decide, by decide, rfl⟩

theorem witness_BackingStoreFollows :
    (Inv evicting ∧ (∃ t, step evicting = .next t) ∧
        (nextState cold (step evicting)).pmem.read 0xA020 ≠ evicting.pmem.read 0xA020) ∧
      (Inv pipe ∧ step pipe = .next pipe1 ∧ pipe.storesAt 0xA000#32 .b8 0x0123456789ABCDEF#64) ∧
      (Inv loading ∧ (∃ t, step loading = .next t) ∧ ∀ pa size value, ¬loading.storesAt pa size value) ∧
      Inv loadingThrough ∧ loadingThrough.writeBack = false ∧ loadingThrough.ms = .idle :=
  ⟨⟨inv_of (by decide), next_exists (by decide), by decide⟩, ⟨pipe_inv, pipe_steps, pipe_stores⟩,
    ⟨loading_inv, next_exists (by decide), loading_stores_nothing⟩, inv_of (by decide), by decide, by decide⟩

theorem witness_StopsAreNamed :
    cold.params.pmemSize < 0x1FFFD + 4 ∧ cold.params.pmemSize < 0x1FFFF + [some 0#8, none].length ∧
      ¬(cold.dtlb.slots[0].valid = true ∧ cold.dtlb.slots[0].tag = (0x1000#64 : Word).extractLsb' 14 18) ∧
      storedTouches [0x10003] (walkAddress cold .data .first 0x1000#64).toNat 4 = true ∧
      storedTouches [0x9000] (0x9000#32 : PAddr).toNat 4 = true := by decide

/-! ### Run status and arbitration -/

/-- An access that halts. -/
def halting : State := { loading with m := .load 0x1004#64 (some 5#5) 0x2002#64 .b4 true }

theorem witness_HaltIsPreciseAndFinal :
    halting.running = true ∧ (∃ s1 reason pc va, memoryStage halting.writeback = .halt s1 reason pc va) ∧
      ({ warm with halt := .halted (.misaligned .data) 0x1004#64 0x2002#64 } : State).halt
        = .halted (.misaligned .data) 0x1004#64 0x2002#64 :=
  ⟨by decide, halt_of (by decide), rfl⟩

/-- A stall, a cycle that completes, and each stall of the data side: a walk's step, a miss at the end of its walk, a dirty
victim's write-back, a fill, and the fill of a smaller write-through store. -/
theorem witness_StallFreezes :
    (stalling.running = true ∧ ∃ s1, memoryStage stalling.writeback = .stall s1) ∧
      (∃ t mout spent, memoryStage pipe = .out t mout spent) ∧
      (stalling.m = .load 0x1004#64 (some 5#5) 0x2000#64 .b8 true ∧ stalling.dataWalk none ∧
        ∃ t step issued, translate .data stalling.pmem false none 0x2000#64 stalling = .retry t step issued) ∧
      (∃ u pa, (walking (missing pipe)).reachesCache 0x2020#64 u pa true ∧ (dHit u pa).isNone = true) ∧
      ((∃ victimPa t, evictingWide.writesBack 0x2000#64 0xA000#32 (victimWay evictingWide 0xA000#32) victimPa t) ∧
        (rowAddress 8 4 0 0x501).toNat + (evictingWide.dLine 0xA000#32 0).data.length ≤ evictingWide.params.pmemSize ∧
        evictingWide.m ≠ .store 0x1000#64 0x2000#64 .b8 1#64) ∧
      ((∃ t, missingLoad.fillsWay 0x2020#64 0xA020#32 (victimWay missingLoad 0xA020#32) t) ∧
        (0xA020#32 : PAddr).toNat / 8 * 8 + 8 ≤ missingLoad.params.pmemSize) ∧
      missingByte.fillCompletes 0x2020#64 0xA020#32 0 (filled missingByte 0xA020#32) ∧
      missingByte.m = .store 0x1000#64 0x2020#64 .b1 1#64 ∧ missingByte.params.dcachePolicy = .writeThrough :=
  ⟨⟨by decide, stall_of (by decide)⟩, out_of (by decide), ⟨rfl, .inl ⟨rfl, rfl⟩, retry_of (by decide)⟩,
    reaches_walked (p := fun u pa => (dHit u pa).isNone) rfl (by decide),
    ⟨writesBack_of (reaches_idle rfl (by decide)) (by decide) (by decide), by decide, by decide⟩,
    ⟨fills_of (reaches_idle rfl (by decide)) (by decide) (by decide), by decide⟩,
    completes_of (reaches_idle rfl (by decide)) (by decide) (by decide) (fun _ _ h => by cases h) (by decide) rfl, rfl, rfl⟩

theorem witness_WritebackCommits :
    let s : State := { pipe with w := .retire 0xFFC#64 (some 0#5) 7#64 }
    s.running = true ∧ (∃ t, step s = .next t) ∧ (∃ s1 mout spent, memoryStage s.writeback = .out s1 mout spent) ∧
      (∃ t, step { pipe with w := .retire 0xFFC#64 none 0#64 } = .next t) ∧ step pipe = .next pipe1 ∧ pipe.w = .bubble :=
  ⟨by decide, next_exists (by decide), out_of (by decide), next_exists (by decide), pipe_steps, rfl⟩

/-- An illegal word in `X`. -/
def illegalX : State := holding (.illegal 0xFFFFFFFF#32) 0x1000#64 0#64 0#64

theorem witness_LogGrowsByIllegal :
    illegalX.running = true ∧ (∃ s1 mout spent, memoryStage illegalX.writeback = .out s1 mout spent) ∧
      illegalX.x = .instr (latched (.illegal 0xFFFFFFFF#32) 0x1000#64 0#64 0#64) ∧ (∃ t, step illegalX = .next t) ∧
      (nextState cold (step illegalX)).log ≠ illegalX.log :=
  ⟨by decide, out_of (by decide), rfl, next_exists (by decide), by decide⟩

theorem witness_SidesAreSeparate :
    (∃ t, fetchStage warm.bp warm.pmem false warm = .next t) ∧ (∃ s mout spent, memoryStage pipe = .out s mout spent) ∧
      (∃ s, memoryStage stalling = .stall s) ∧ (∃ s reason pc va, memoryStage halting = .halt s reason pc va) ∧
      step pipe = .next pipe1 :=
  ⟨next_exists (by decide), out_of (by decide), stall_of (by decide), halt_of (by decide), pipe_steps⟩

/-! ### Reset and the invariants -/

theorem witness_ResetMeetsInvariants :
    Config.defaults.wf = true ∧ Memory.wf (program ++ tables) = true ∧
      ∀ c ∈ program ++ tables, c.1 < Config.defaults.pmemSize := by decide

theorem witness_InvariantKept : Inv pipe ∧ step pipe = .next pipe1 := ⟨pipe_inv, pipe_steps⟩

theorem witness_ProgramOrderKept : pipe.chained = true ∧ step pipe = .next pipe1 := ⟨by decide, pipe_steps⟩

theorem witness_OperandsStayFresh :
    pipe.plainX0 = true ∧ pipe.decodedX = true ∧ pipe.operandsFresh = true ∧ step pipe = .next pipe1 :=
  ⟨by decide, by decide, by decide, pipe_steps⟩

theorem witness_TranslationKept : Inv pipe ∧ TranslationInv pipe ∧ step pipe = .next pipe1 :=
  ⟨pipe_inv, pipe_translation, pipe_steps⟩

theorem witness_FetchedWordsAreTheProgram :
    Inv pipe ∧ TranslationInv pipe ∧ FetchedWordInv pipe ∧ step pipe = .next pipe1 :=
  ⟨pipe_inv, pipe_translation, pipe_words, pipe_steps⟩

/-- A state meets the hypotheses of `ScalarExecution`. -/
def scalarHyps (s : State) : Bool := s.plainX0 && s.decodedX && s.operandsFresh && s.chained && s.running

/-- Clause by clause: an instruction in `X`, none in `X`, and a memory stage that does not complete. -/
theorem witness_ScalarExecution :
    (scalarHyps pipe = true ∧ step pipe = .next pipe1 ∧
        (∃ s1 mout spent, memoryStage pipe.writeback = .out s1 mout spent) ∧ ∃ v, pipe.x = .instr v) ∧
      (scalarHyps loading = true ∧ (∃ t, step loading = .next t) ∧
        (∃ s1 mout spent, memoryStage loading.writeback = .out s1 mout spent) ∧ ∀ v, loading.x ≠ .instr v) ∧
      scalarHyps stalling = true ∧ (∃ t, step stalling = .next t) ∧
        ∀ s1 mout spent, memoryStage stalling.writeback ≠ .out s1 mout spent := by
  refine ⟨⟨by decide, pipe_steps, out_of (by decide), _, rfl⟩,
    ⟨by decide, next_exists (by decide), out_of (by decide), fun v h => by cases h⟩,
    by decide, next_exists (by decide), fun s1 mout spent h => ?_⟩
  obtain ⟨t, ht⟩ := stall_of (r := memoryStage stalling.writeback) (by decide)
  cases ht.symm.trans h

end Sys2Proof.Tests
end

namespace Sys2Proof.Machine

/-! ## The memory stage changes only the data side -/

theorem DataChange.regs_eq {s t : State} (h : DataChange s t) : t.regs = s.regs := by
  obtain ⟨_, _, _, _, _, _, _, _, _, rfl⟩ := h
  rfl

/-- The states a memory-stage result carries are data-side changes of `s`. -/
def MemResult.Changes (s : State) : MemResult → Prop
  | .out t _ _ => DataChange s t
  | .stall t => DataChange s t
  | .halt t _ _ _ => DataChange s t
  | .stop _ => True

theorem DataResult.toMem_changes {s : State} {r : DataResult} (h : r.Changes s) (mout : List (Option Byte) → WLatch) :
    (r.toMem mout).Changes s := by
  cases r with
  | served t bytes spent => exact h
  | stall t => exact h
  | stop x => trivial

theorem translateAndAccess_changes (s : State) (op : DataOp) (pc va : Word) (walk : Option (WalkStep × Bool))
    (mout : PAddr → List (Option Byte) → WLatch) : (translateAndAccess s op pc va walk mout).Changes s := by
  have hc := fun t => translate_data_changes s.pmem false walk va s t
  unfold translateAndAccess
  cases ht : translate .data s.pmem false walk va s with
  | hit pa => exact DataResult.toMem_changes (dcacheAccess_changes (.refl s) _ _ _) _
  | done t pa => exact DataResult.toMem_changes (dcacheAccess_changes (hc t (.inl ⟨pa, ht⟩)) _ _ _) _
  | retry t step issued => exact (hc t (.inr (.inl ⟨_, _, ht⟩))).setMs _
  | pageFault t => exact hc t (.inr (.inr (.inl ht)))
  | slotMismatch t => exact hc t (.inr (.inr (.inr ht)))
  | stop x => trivial

theorem dataAccess_changes (s : State) (op : DataOp) (pc va : Word) (mout : PAddr → List (Option Byte) → WLatch) :
    (dataAccess s op pc va mout).Changes s := by
  have cached (pa : PAddr) : ((dcacheAccess s op pa false).toMem (mout pa)).Changes s :=
    DataResult.toMem_changes (dcacheAccess_changes (.refl s) _ _ _) _
  unfold dataAccess
  split
  · exact DataChange.refl s
  · cases s.ms with
    | idle => exact translateAndAccess_changes s _ _ _ _ _
    | dTlb step issued => exact translateAndAccess_changes s _ _ _ _ _
    | dDeferred pa => exact cached pa
    | dEvict pa way victimPa issued => exact cached pa
    | dFill pa way issued => exact cached pa
    | dWriteThrough pa issued => exact cached pa

/-- The memory stage changes only the data side's own state (R79, R382). -/
theorem memoryStage_changes (s : State) : (memoryStage s).Changes s := by
  unfold memoryStage
  split
  -- a latch without an access, a fault token, a load or store
  case h_1 | h_2 | h_3 => exact (DataChange.refl s).setMs _
  case h_4 => exact DataChange.refl s
  case h_5 | h_6 => exact dataAccess_changes s _ _ _ _

/-! ## The execute stage changes only `M`, the redirect's targets, the predictor and the log -/

/-- `t` is `s` up to what the execute stage writes. -/
def ExecuteChange (s t : State) : Prop :=
  ∃ m pc fs d bp log,
    t = { s with
      m := m
      pc := pc
      fs := fs
      d := d
      bp := bp
      log := log }

theorem ExecuteChange.regs_eq {s t : State} (h : ExecuteChange s t) : t.regs = s.regs := by
  obtain ⟨_, _, _, _, _, _, rfl⟩ := h
  rfl

/-- Every meaning runs on the instruction in `X` and ends by writing `M` and checking the prediction (R370); before that it
changes at most the predictor and the log (R373, R376). -/
theorem exec_eq_onInstr (i : Instr) (s : State) :
    ∃ (bp : XInstr → Vector BpEntry 32) (log : XInstr → List (Word × Word32)) (m' : XInstr → MLatch)
      (nextPc : XInstr → Word),
      exec i s = onInstr s fun v => ({ s with bp := bp v, log := log v } : State).finish v (m' v) (nextPc v) := by
  cases i <;> exact ⟨_, _, _, _, rfl⟩

theorem finish_changes (s : State) (bp : Vector BpEntry 32) (log : List (Word × Word32)) (v : XInstr) (m' : MLatch)
    (nextPc : Word) : ExecuteChange s (({ s with bp := bp, log := log } : State).finish v m' nextPc) := by
  rw [State.finish_eq_executed]
  obtain ⟨_, h⟩ | ⟨_, h⟩ := State.executed_cases { s with bp := bp, log := log } v m' nextPc
  · rw [h]; exact ⟨_, _, _, _, _, _, rfl⟩
  · rw [h]; exact ⟨_, _, _, _, _, _, rfl⟩

theorem executeStage_changes {s t : State} (h : executeStage s = .next t) : ExecuteChange s t := by
  unfold executeStage at h
  split at h
  · cases h; exact ⟨_, _, _, _, _, _, rfl⟩
  · cases h; exact ⟨_, _, _, _, _, _, rfl⟩
  · rename_i v hx
    obtain ⟨bp, log, m', nextPc, he⟩ := exec_eq_onInstr v.op s
    cases (he.trans (onInstr_instr hx _)).symm.trans h
    exact finish_changes s _ _ _ _ _

/-! ## The decode and fetch stages -/

@[simp] theorem decodeStage_regs (oldX : XLatch) (mout : WLatch) (s : State) :
    (decodeStage oldX mout s).regs = s.regs := by
  obtain ⟨_, h⟩ | ⟨_, _, _, h⟩ | ⟨_, _, _, _, ⟨_, _, _, _, h⟩ | ⟨_, h⟩⟩ := decodeStage_cases oldX mout s
  all_goals rw [h]

theorem FetchChange.regs_eq {s t : State} (h : FetchChange s t) : t.regs = s.regs := by
  obtain ⟨_, _, _, _, _, _, _, _, _, rfl⟩ := h
  rfl

/-- A fetch from a misaligned address leaves a fault token; any other goes on from its status (R338, R347). -/
theorem fetchChange_of_aligned {s t : State} {r : Result} (hr : r = .next t → FetchChange s t)
    (h : (if misalignedFetch s.pc then .next (fetchFault (.misaligned .instr) s) else r) = .next t) :
    FetchChange s t := by
  split at h
  · cases h; exact ⟨_, _, _, _, _, _, _, _, _, rfl⟩
  · exact hr h

/-- The fetch stage changes only the fetch side's own state (R79, R349). -/
theorem fetchStage_changes {bp : Vector BpEntry 32} {mem : Memory} {spent : Bool} {s t : State}
    (h : fetchStage bp mem spent s = .next t) : FetchChange s t := by
  unfold fetchStage at h
  cases hf : s.fs with
  | faulted => rw [hf] at h; cases h; exact ⟨_, _, _, _, _, _, _, _, _, rfl⟩
  | iDeferred pa => rw [hf] at h; exact fetchChange_of_aligned icacheAccess_changes h
  | iFill pa way issued => rw [hf] at h; exact fetchChange_of_aligned icacheAccess_changes h
  | fresh => rw [hf] at h; exact fetchChange_of_aligned fetchTranslate_changes h
  | iTlb step issued => rw [hf] at h; exact fetchChange_of_aligned fetchTranslate_changes h

/-! ## Writeback is the only writer of the register file (R22, R400) -/

theorem State.writeback_of_dest {s : State} {pc v : Word} {r : Reg} (h : s.w = .retire pc (some r) v) :
    s.writeback = s.writeReg r v := by
  rw [State.writeback, h]

theorem State.writeback_of_noDest {s : State} {pc v : Word} (h : s.w = .retire pc none v) : s.writeback = s := by
  rw [State.writeback, h]

theorem State.writeback_of_bubble {s : State} (h : s.w = .bubble) : s.writeback = s := by
  rw [State.writeback, h]

/-- Execute, decode and fetch write no register. -/
theorem advance_regs {start s t : State} {mout : WLatch} {dataSpent : Bool}
    (h : advance start mout dataSpent s = .next t) : t.regs = s.regs := by
  obtain ⟨s1, s2, hexec, hfetch, rfl⟩ := advance_next h
  calc s2.regs = (decodeStage start.x mout s1).regs := (fetchStage_changes hfetch).regs_eq
    _ = s1.regs := decodeStage_regs _ _ _
    _ = s.regs := (executeStage_changes hexec).regs_eq

/-- The memory stage hands decode the register file writeback left. -/
theorem memoryStage_out_regs {s t : State} {mout : WLatch} {spent : Bool} (h : memoryStage s = .out t mout spent) :
    t.regs = s.regs := by
  have hc := memoryStage_changes s
  rw [h] at hc
  exact hc.regs_eq

/-- In every cycle of a running machine, a halting or stalled one included, the registers are those writeback left. -/
theorem step_regs {s t : State} (hrun : s.running = true) (h : step s = .next t) : t.regs = s.writeback.regs := by
  have hc := memoryStage_changes s.writeback
  obtain ⟨hstop, _⟩ | ⟨_, ⟨s1, reason, pc, va, hm, rfl⟩ | ⟨s1, hm, rfl⟩ | ⟨s1, mout, spent, hm, ha⟩⟩ := step_next h
  · simp [hrun] at hstop
  · rw [hm] at hc; exact hc.regs_eq
  · rw [hm] at hc; exact hc.regs_eq
  · exact (advance_regs ha).trans (memoryStage_out_regs hm)

/-- Settles O50: every stage after writeback leaves the register file as writeback left it. -/
theorem writebackCommits : Obligations.WritebackCommits := by
  intro s t hrun hstep
  have hregs := step_regs hrun hstep
  refine ⟨fun pc r v hw => ?_, fun pc v hw => ?_, fun hw => ?_, fun s1 mout spent hm => ?_⟩
  · rw [hregs, State.writeback_of_dest hw, State.writeReg_regs]
    simp
  · rw [hregs, State.writeback_of_noDest hw]
  · rw [hregs, State.writeback_of_bubble hw]
  · rw [memoryStage_out_regs hm, hregs]

end Sys2Proof.Machine

namespace Sys2Proof.Machine

/-! ## The rows of a cache -/

/-- The row at an index and way, if the cache has it (R39). -/
def Cache.row (cache : Cache) (index way : Nat) : Option Line := (cache.ways index)[way]?

theorem Cache.line_of_row {cache : Cache} {index way : Nat} {l : Line} (h : cache.row index way = some l) (lineSize : Nat) :
    cache.line lineSize index way = l := by
  unfold Cache.row at h
  simp [Cache.line, List.getD_eq_getElem?_getD, h]

/-- A way below the associativity has a row. -/
theorem Cache.row_of_lt {cache : Cache} {index way : Nat} (h : way < (cache.ways index).length) (lineSize : Nat) :
    cache.row index way = some (cache.line lineSize index way) := by
  simp [Cache.row, Cache.line, List.getD_eq_getElem?_getD, h]

/-- A row belongs to a set of the cache. -/
theorem Cache.row_eq_some {cache : Cache} {index way : Nat} {l : Line} :
    cache.row index way = some l ↔ ∃ set, cache[index]? = some set ∧ set[way]? = some l := by
  unfold Cache.row Cache.ways
  rw [List.getD_eq_getElem?_getD]
  cases cache[index]? <;> simp

/-- Replacing one row replaces that row alone. -/
theorem Cache.row_setLine {cache : Cache} {index way : Nat} (h : way < (cache.ways index).length) (l : Line) (i w : Nat) :
    (cache.setLine index way l).row i w = if i = index ∧ w = way then some l else cache.row i w := by
  have hi : index < cache.length := by
    by_contra hn
    simp [Cache.ways, List.getD_eq_getElem?_getD, List.getElem?_eq_none (Nat.not_lt.1 hn)] at h
  simp only [Cache.row, Cache.ways, Cache.setLine, List.getD_eq_getElem?_getD] at h ⊢
  by_cases hii : i = index
  · subst hii
    rw [List.getElem?_set_self hi, Option.getD_some]
    by_cases hw : w = way
    · subst hw; simp [h]
    · simp [hw, List.getElem?_set_ne (Ne.symm hw)]
  · rw [List.getElem?_set_ne (Ne.symm hii), if_neg (fun h => hii h.1)]

theorem Cache.length_setLine (cache : Cache) (index way : Nat) (l : Line) : (cache.setLine index way l).length = cache.length := by
  simp [Cache.setLine]

/-- Replacing a row keeps every set's associativity. -/
theorem Cache.length_ways_setLine_any (cache : Cache) (index way i : Nat) (l : Line) :
    ((cache.setLine index way l).ways i).length = (cache.ways i).length := by
  by_cases hi : i = index
  · subst hi; exact cache.length_ways_setLine i way l
  · simp only [Cache.ways, Cache.setLine, List.getD_eq_getElem?_getD, List.getElem?_set_ne (Ne.symm hi)]

/-- The way that hits is a valid row with the tag (R95). -/
theorem hitWay_eq_some {cache : Cache} {index tag way : Nat} (h : hitWay (cache.ways index) tag = some way) :
    ∃ l, cache.row index way = some l ∧ l.valid = true ∧ l.tag = tag := by
  obtain ⟨hlt, hp, -⟩ := List.findIdx?_eq_some_iff_getElem.1 h
  exact ⟨(cache.ways index)[way], List.getElem?_eq_getElem hlt, by simpa using hp⟩

/-- No way hits exactly when no row of the set is valid with the tag (R97). -/
theorem hitWay_eq_none {cache : Cache} {index tag : Nat} :
    hitWay (cache.ways index) tag = none ↔ ∀ way l, cache.row index way = some l → ¬(l.valid = true ∧ l.tag = tag) := by
  unfold hitWay Cache.row
  rw [List.findIdx?_eq_none_iff]
  constructor
  · intro h way l hl hv
    have := h l (List.mem_of_getElem? hl)
    simp [hv.1, hv.2] at this
  · intro h l hl
    obtain ⟨way, hw⟩ := List.getElem?_of_mem hl
    have := h way l hw
    simpa using this

/-! ## What the structural checks of Safety say of the rows -/

theorem Cache.shaped_iff {lineSize rows ways : Nat} {cache : Cache} :
    cache.shaped lineSize rows ways = true ↔
      cache.length = rows ∧ (∀ index < rows, (cache.ways index).length = ways) ∧
        ∀ index way l, cache.row index way = some l → l.data.length = lineSize := by
  simp only [Cache.shaped, Bool.and_eq_true, beq_iff_eq, List.all_eq_true, Cache.row_eq_some]
  constructor
  · rintro ⟨rfl, hsets⟩
    refine ⟨rfl, fun index hi => ?_, ?_⟩
    · simpa [Cache.ways, List.getD_eq_getElem?_getD, hi] using (hsets cache[index] (List.getElem_mem hi)).1
    · rintro index way l ⟨set, hset, hl⟩
      exact (hsets set (List.mem_of_getElem? hset)).2 l (List.mem_of_getElem? hl)
  · rintro ⟨rfl, hways, hdata⟩
    refine ⟨rfl, fun set hset => ?_⟩
    obtain ⟨index, hi⟩ := List.getElem?_of_mem hset
    refine ⟨?_, fun l hl => ?_⟩
    · simpa [Cache.ways, List.getD_eq_getElem?_getD, hi] using hways index (List.getElem?_eq_some_iff.1 hi).1
    · obtain ⟨way, hw⟩ := List.getElem?_of_mem hl
      exact hdata index way l ⟨set, hi, hw⟩

theorem Cache.allValid_iff {cache : Cache} {p : Nat → Line → Bool} :
    cache.allValid p = true ↔ ∀ index way l, cache.row index way = some l → l.valid = true → p index l = true := by
  simp only [Cache.allValid, List.all_eq_true, Cache.row_eq_some, Bool.or_eq_true, Bool.not_eq_true', Prod.forall,
    List.mem_zipIdx_iff_getElem?]
  constructor
  · rintro h index way l ⟨set, hset, hl⟩ hv
    exact (h set index hset l (List.mem_of_getElem? hl)).resolve_left (by simp [hv])
  · intro h set index hset l hl
    obtain ⟨way, hw⟩ := List.getElem?_of_mem hl
    cases hv : l.valid
    · exact .inl rfl
    · exact .inr (h index way l ⟨set, hset, hw⟩ hv)

/-- No two rows of a set are valid with one tag (R95). -/
theorem Cache.unique_of_uniqueTags {cache : Cache} (h : cache.uniqueTags = true) {index w w' : Nat} {l l' : Line}
    (hl : cache.row index w = some l) (hl' : cache.row index w' = some l') (hv : l.valid = true) (hv' : l'.valid = true)
    (ht : l.tag = l'.tag) : w = w' := by
  obtain ⟨set, hset, hw⟩ := Cache.row_eq_some.1 hl
  obtain ⟨set', hset', hw'⟩ := Cache.row_eq_some.1 hl'
  obtain rfl : set = set' := Option.some.inj (hset.symm.trans hset')
  simp only [Cache.uniqueTags, List.all_eq_true, decide_eq_true_eq] at h
  have hp := List.pairwise_filter.1 (List.pairwise_map.1 (h set (List.mem_of_getElem? hset)))
  rw [List.pairwise_iff_getElem] at hp
  obtain ⟨hlt, rfl⟩ := List.getElem?_eq_some_iff.1 hw
  obtain ⟨hlt', rfl⟩ := List.getElem?_eq_some_iff.1 hw'
  rcases Nat.lt_trichotomy w w' with hww | hww | hww
  · exact absurd ht (hp w w' hlt hlt' hww hv hv')
  · exact hww
  · exact absurd ht.symm (hp w' w hlt' hlt hww hv' hv)

theorem Cache.all_rows_iff {cache : Cache} {p : Line → Bool} :
    (cache.all fun set => set.all p) = true ↔ ∀ index way l, cache.row index way = some l → p l = true := by
  simp only [List.all_eq_true, Cache.row_eq_some]
  constructor
  · rintro h index way l ⟨set, hset, hl⟩
    exact h set (List.mem_of_getElem? hset) l (List.mem_of_getElem? hl)
  · intro h set hset l hl
    obtain ⟨index, hi⟩ := List.getElem?_of_mem hset
    obtain ⟨way, hw⟩ := List.getElem?_of_mem hl
    exact h index way l ⟨set, hi, hw⟩

/-! ## Lines and their bytes -/

theorem getD_putSlice {data bytes : List (Option Byte)} {offset : Nat} (h : offset + bytes.length ≤ data.length)
    (k : Nat) :
    (putSlice data offset bytes).getD k none =
      if offset ≤ k ∧ k < offset + bytes.length then bytes.getD (k - offset) none else data.getD k none := by
  simp only [putSlice, List.getD_eq_getElem?_getD, List.getElem?_append, List.length_append, List.length_take,
    List.getElem?_drop, List.getElem?_take]
  have hmin : min offset data.length = offset := by omega
  simp only [hmin]
  by_cases h1 : k < offset
  · simp [h1, show k < offset + bytes.length by omega, show ¬offset ≤ k by omega]
  · by_cases h2 : k < offset + bytes.length
    · simp [h1, h2, Nat.not_lt.1 h1]
    · simp [h2, show offset + bytes.length + (k - (offset + bytes.length)) = k by omega]

theorem length_putSlice {data bytes : List (Option Byte)} {offset : Nat} (h : offset + bytes.length ≤ data.length) :
    (putSlice data offset bytes).length = data.length := by
  simp only [putSlice, List.length_append, List.length_take, List.length_drop]
  omega

@[simp] theorem length_knownBytes (size : AccessSize) (value : Word) : (knownBytes size value).length = size.bytes := by
  simp [knownBytes]

theorem getElem?_leBytes (n v k : Nat) :
    (leBytes n v)[k]? = if k < n then some (BitVec.ofNat 8 (v / 256 ^ k)) else none := by
  induction n generalizing v k with
  | zero => simp [leBytes]
  | succ n ih =>
    cases k with
    | zero => simp [leBytes]
    | succ k => simp [leBytes, ih, Nat.div_div_eq_div_mul, Nat.pow_succ']

/-- The bytes a store writes are those `storedByteAt` names (R66, R263). -/
theorem getD_knownBytes {size : AccessSize} {pa a : PAddr} (h : inAccess pa size.bytes a = true) (value : Word) :
    (knownBytes size value).getD (a.toNat - pa.toNat) none = some (storedByteAt pa value a) := by
  simp only [inAccess, Bool.and_eq_true, decide_eq_true_eq] at h
  have hk : a.toNat - pa.toNat < size.bytes := by omega
  simp only [knownBytes, storeBytes, List.getD_eq_getElem?_getD, List.getElem?_map, getElem?_leBytes, hk, if_true,
    Option.map_some, Option.getD_some, storedByteAt, Option.some.injEq]
  refine BitVec.eq_of_toNat_eq ?_
  rw [BitVec.toNat_ofNat, BitVec.extractLsb'_toNat, Nat.shiftRight_eq_div_pow, Nat.pow_mul]

/-- A line is the backing store's exactly when each of its bytes is. -/
theorem eq_readBytes_iff {data : List (Option Byte)} {m : Memory} {k n : Nat} (h : data.length = n) :
    data = m.readBytes k n ↔ ∀ i < n, data.getD i none = m.read (k + i) := by
  constructor
  · rintro hd i hi
    rw [hd, List.getD_eq_getElem?_getD, Memory.getElem?_readBytes, if_pos hi, Option.getD_some]
  · intro hb
    refine List.ext_getElem? fun i => ?_
    rw [Memory.getElem?_readBytes]
    by_cases hi : i < n
    · rw [if_pos hi, ← hb i hi, List.getElem?_eq_getElem (h ▸ hi), List.getD_eq_getElem _ _ (h ▸ hi)]
    · rw [if_neg hi, List.getElem?_eq_none (by omega)]

end Sys2Proof.Machine

namespace Sys2Proof.Machine

/-! ## Lines and addresses (R94) -/

/-- The line with an address's tag, in the address's set, begins at the address's line base (R94, R99). -/
theorem Line.address_eq_lineBase_iff {s : State} (hrows : 0 < s.params.dcacheRows) {index : Nat}
    (hi : index < s.params.dcacheRows) (l : Line) (pa : PAddr) :
    l.address Config.dline s.params.dcacheRows index = lineBase Config.dline pa ↔ index = s.dIndex pa ∧ l.tag = s.dTag pa := by
  have hdm := Nat.div_add_mod (pa.toNat / 8) s.params.dcacheRows
  simp only [Line.address, lineBase, State.dIndex, State.dTag, lineIndex, lineTag, Config.dline]
  constructor
  · intro h
    have hq : index + s.params.dcacheRows * l.tag = pa.toNat / 8 := by
      rw [Nat.mul_comm]; omega
    obtain ⟨htag, hindex⟩ := (Nat.div_mod_unique hrows).2 ⟨hq, hi⟩
    exact ⟨hindex.symm, htag.symm⟩
  · rintro ⟨rfl, htag⟩
    rw [htag, Nat.mul_comm (_ / _)]
    omega

/-- Two addresses select one set with one tag exactly when they lie in one line (R94). -/
theorem sameLine_iff (s : State) (a b : PAddr) :
    (s.dIndex a = s.dIndex b ∧ s.dTag a = s.dTag b) ↔ a.toNat / 8 = b.toNat / 8 := by
  simp only [State.dIndex, State.dTag, lineIndex, lineTag, Config.dline]
  constructor
  · rintro ⟨hindex, htag⟩
    rw [← Nat.div_add_mod (a.toNat / 8) s.params.dcacheRows, ← Nat.div_add_mod (b.toNat / 8) s.params.dcacheRows, hindex,
      htag]
  · intro h; rw [h]; exact ⟨rfl, rfl⟩

/-- A way of the data cache holds an address: a valid row of its set with its tag (R95). -/
def State.holds (s : State) (a : PAddr) (way : Nat) (l : Line) : Prop :=
  s.dcache.row (s.dIndex a) way = some l ∧ l.valid = true ∧ l.tag = s.dTag a

theorem State.dMisses_iff {s : State} {a : PAddr} : s.dMisses a ↔ ∀ way l, ¬s.holds a way l := by
  unfold State.dMisses State.holds
  rw [hitWay_eq_none]
  simp only [not_and]

theorem State.holds_of_hitWay {s : State} {a : PAddr} {way : Nat}
    (h : hitWay (s.dcache.ways (s.dIndex a)) (s.dTag a) = some way) : s.holds a way (s.dLine a way) := by
  obtain ⟨l, hrow, hl⟩ := hitWay_eq_some h
  unfold State.holds State.dLine
  rw [Cache.line_of_row hrow]
  exact ⟨hrow, hl⟩

theorem State.viewByte_of_dMisses {s : State} {a : PAddr} (h : s.dMisses a) : s.viewByte a = s.pmem.read a.toNat := by
  unfold State.dMisses at h
  simp [State.viewByte, h]

/-! ## The coherence of the data side -/

/-- The data cache is well formed and coherent with the backing store (R39, R95, R99, R101), but for clean lines at the
addresses of `exempt`: those may run ahead of the backing store while they are written through (assumption 10). -/
structure Coherent (s : State) (exempt : Nat → Prop) : Prop where
  params_wf : s.params.wf = true
  pmem_wf : s.pmem.wf = true
  rows : s.dcache.length = s.params.dcacheRows
  ways : ∀ index < s.params.dcacheRows, (s.dcache.ways index).length = s.params.dcacheWays
  lineSize : ∀ index way l, s.dcache.row index way = some l → l.data.length = 8
  unique : ∀ index w w' l l', s.dcache.row index w = some l → s.dcache.row index w' = some l' → l.valid = true →
    l'.valid = true → l.tag = l'.tag → w = w'
  addressed : ∀ index way l, s.dcache.row index way = some l → l.valid = true →
    l.address Config.dline s.params.dcacheRows index < 2 ^ 32
  clean : ∀ index way l, s.dcache.row index way = some l → l.valid = true → l.dirty = false →
    exempt (l.address Config.dline s.params.dcacheRows index) ∨
      ∀ k < 8, l.data.getD k none = s.pmem.read (l.address Config.dline s.params.dcacheRows index + k)
  undirtied : s.writeBack = false → ∀ index way l, s.dcache.row index way = some l → l.dirty = false

section
variable {s t : State} {exempt : Nat → Prop}

theorem Coherent.rows_pos (h : Coherent s exempt) : 0 < s.params.dcacheRows := by
  have hp := h.params_wf
  simp only [Params.wf, isPowerOfTwo, Bool.and_eq_true, beq_iff_eq] at hp
  rw [hp.1.1.1.2]
  exact Nat.two_pow_pos _

theorem Coherent.ways_pos (h : Coherent s exempt) : 0 < s.params.dcacheWays := by
  have hp := h.params_wf
  simp only [Params.wf, Bool.and_eq_true, Bool.or_eq_true, beq_iff_eq] at hp
  omega

theorem Coherent.dIndex_lt (h : Coherent s exempt) (pa : PAddr) : s.dIndex pa < s.params.dcacheRows :=
  Nat.mod_lt _ h.rows_pos

theorem Coherent.length_ways (h : Coherent s exempt) (pa : PAddr) :
    (s.dcache.ways (s.dIndex pa)).length = s.params.dcacheWays := h.ways _ (h.dIndex_lt pa)

theorem Coherent.row_dLine (h : Coherent s exempt) (pa : PAddr) {way : Nat} (hw : way < s.params.dcacheWays) :
    s.dcache.row (s.dIndex pa) way = some (s.dLine pa way) :=
  Cache.row_of_lt (by rwa [h.length_ways pa]) _

/-- A row is at a set of the cache, and at a way of the set. -/
theorem Coherent.lt_of_row (h : Coherent s exempt) {index way : Nat} {l : Line} (hl : s.dcache.row index way = some l) :
    index < s.params.dcacheRows ∧ way < s.params.dcacheWays := by
  obtain ⟨set, hset, hway⟩ := Cache.row_eq_some.1 hl
  have hi : index < s.params.dcacheRows := h.rows ▸ (List.getElem?_eq_some_iff.1 hset).1
  exact ⟨hi, h.ways index hi ▸ (List.getElem?_eq_some_iff.1 hl).1⟩

/-- A line begins where an address's line does exactly when it is the address's line. -/
theorem Coherent.address_eq_iff (h : Coherent s exempt) {index way : Nat} {l : Line} (hl : s.dcache.row index way = some l)
    (pa : PAddr) :
    l.address Config.dline s.params.dcacheRows index = lineBase Config.dline pa ↔
      index = s.dIndex pa ∧ l.tag = s.dTag pa :=
  Line.address_eq_lineBase_iff h.rows_pos (h.lt_of_row hl).1 l pa

/-- The byte the data side sees where a way holds the address. -/
theorem Coherent.viewByte_of_holds (h : Coherent s exempt) {a : PAddr} {way : Nat} {l : Line} (hl : s.holds a way l) :
    s.viewByte a = l.data.getD (a.toNat % 8) none := by
  obtain ⟨hrow, hv, ht⟩ := hl
  unfold State.viewByte
  split
  · next w hw =>
    obtain ⟨k, hk, hkv, hkt⟩ := hitWay_eq_some hw
    obtain rfl := h.unique _ _ _ _ _ hk hrow hkv hv (hkt.trans ht.symm)
    rw [State.dLine, Cache.line_of_row hrow]
    rfl
  · next hn => exact absurd ⟨hv, ht⟩ (hitWay_eq_none.1 hn way l hrow)

/-- A clean line that is not exempt shows the backing store. -/
theorem Coherent.viewByte_of_clean (h : Coherent s exempt) {a : PAddr} {way : Nat} {l : Line} (hl : s.holds a way l)
    (hd : l.dirty = false) (he : ¬exempt (lineBase Config.dline a)) : s.viewByte a = s.pmem.read a.toNat := by
  obtain ⟨hrow, hv, ht⟩ := hl
  have haddr := (h.address_eq_iff hrow a).2 ⟨rfl, ht⟩
  have hclean := h.clean _ _ _ hrow hv hd
  rw [haddr] at hclean
  rw [h.viewByte_of_holds ⟨hrow, hv, ht⟩, hclean.resolve_left he _ (Nat.mod_lt _ (by omega)), lineBase]
  congr 1
  simp only [Config.dline]
  omega

/-- Coherence speaks of the data cache, the backing store and the parameters only. -/
theorem Coherent.congr (h : Coherent s exempt) (hc : t.dcache = s.dcache) (hm : t.pmem = s.pmem)
    (hp : t.params = s.params) : Coherent t exempt := by
  obtain ⟨h1, h2, h3, h4, h5, h6, h7, h8, h9⟩ := h
  unfold State.writeBack at h9
  constructor <;> simpa only [hc, hm, hp, State.writeBack]

theorem Coherent.mono {exempt' : Nat → Prop} (h : Coherent s exempt) (he : ∀ a, exempt a → exempt' a) :
    Coherent s exempt' :=
  { h with clean := fun index way l hl hv hd => (h.clean index way l hl hv hd).imp_left (he _) }

/-- No exemption is needed for a line that is not in the cache. -/
theorem Coherent.of_dMisses (h : Coherent s exempt) {pa : PAddr} (he : ∀ a, exempt a → a = lineBase Config.dline pa)
    (hmiss : s.dMisses pa) (exempt' : Nat → Prop) : Coherent s exempt' := by
  refine { h with clean := fun index way l hl hv hd => .inr ((h.clean index way l hl hv hd).resolve_left fun hx => ?_) }
  obtain ⟨rfl, ht⟩ := (h.address_eq_iff hl pa).1 (he _ hx)
  exact State.dMisses_iff.1 hmiss way l ⟨hl, hv, ht⟩

theorem State.dIndex_congr (hp : t.params = s.params) (a : PAddr) : t.dIndex a = s.dIndex a := by
  unfold State.dIndex; rw [hp]

theorem State.dTag_congr (hp : t.params = s.params) (a : PAddr) : t.dTag a = s.dTag a := by
  unfold State.dTag; rw [hp]

/-! ## Putting a line of an address into its set -/

/-- A step of the data side that puts `l`, a line of `pa`, into a way of its set, and writes the backing store in that line
only (R101, R103, R104). No other way holds the address, and no dirty line of another address is overwritten (R99). -/
structure PutsLine (s t : State) (pa : PAddr) (way : Nat) (l : Line) : Prop where
  params : t.params = s.params
  dcache : t.dcache = s.dcache.setLine (s.dIndex pa) way l
  pmem_wf : t.pmem.wf = true
  pmem : ∀ a, a / 8 ≠ pa.toNat / 8 → t.pmem.read a = s.pmem.read a
  way_lt : way < s.params.dcacheWays
  valid : l.valid = true
  tag : l.tag = s.dTag pa
  lineSize : l.data.length = 8
  undirtied : s.writeBack = false → l.dirty = false
  only : ∀ w k, s.holds pa w k → w = way
  victim : ∀ k, s.dcache.row (s.dIndex pa) way = some k → k.valid = true → k.tag ≠ s.dTag pa → k.dirty = false

variable {pa : PAddr} {way : Nat} {l : Line}

theorem Coherent.row_of_puts (h : Coherent s exempt) (hl : PutsLine s t pa way l) (index w : Nat) :
    t.dcache.row index w = if index = s.dIndex pa ∧ w = way then some l else s.dcache.row index w := by
  rw [hl.dcache, Cache.row_setLine (by rw [h.length_ways pa]; exact hl.way_lt)]

/-- Afterwards a valid row is the line put there, or a row from before of another line. -/
theorem Coherent.row_cases_of_puts (h : Coherent s exempt) (hl : PutsLine s t pa way l) {index w : Nat} {k : Line}
    (hk : t.dcache.row index w = some k) (hv : k.valid = true) :
    (index = s.dIndex pa ∧ w = way ∧ k = l) ∨
      s.dcache.row index w = some k ∧ ¬(index = s.dIndex pa ∧ k.tag = s.dTag pa) := by
  rw [h.row_of_puts hl] at hk
  split at hk
  · next hiw => exact .inl ⟨hiw.1, hiw.2, (Option.some.inj hk).symm⟩
  · next hiw =>
    refine .inr ⟨hk, ?_⟩
    rintro ⟨rfl, ht⟩
    exact hiw ⟨rfl, hl.only w k ⟨hk, hv, ht⟩⟩

/-- The coherence is kept when the line, if clean, is exempt or the backing store's. -/
theorem Coherent.puts (h : Coherent s exempt) (he : ∀ a, exempt a → a = lineBase Config.dline pa)
    (hl : PutsLine s t pa way l) {exempt' : Nat → Prop}
    (hclean : l.dirty = false → exempt' (lineBase Config.dline pa) ∨
      ∀ k < 8, l.data.getD k none = t.pmem.read (lineBase Config.dline pa + k)) : Coherent t exempt' := by
  have haddr : l.address Config.dline s.params.dcacheRows (s.dIndex pa) = lineBase Config.dline pa :=
    (Line.address_eq_lineBase_iff h.rows_pos (h.dIndex_lt pa) l pa).2 ⟨rfl, hl.tag⟩
  constructor
  case params_wf => rw [hl.params]; exact h.params_wf
  case pmem_wf => exact hl.pmem_wf
  case rows => rw [hl.dcache, Cache.length_setLine, hl.params, h.rows]
  case ways =>
    intro index hi
    rw [hl.params] at hi ⊢
    rw [hl.dcache, Cache.length_ways_setLine_any, h.ways index hi]
  case lineSize =>
    intro index w k hk
    rw [h.row_of_puts hl] at hk
    split at hk
    · cases hk; exact hl.lineSize
    · exact h.lineSize index w k hk
  case unique =>
    intro index w w' k k' hk hk' hv hv' ht
    obtain ⟨hi, rfl, rfl⟩ | ⟨hk1, hn⟩ := h.row_cases_of_puts hl hk hv <;>
      obtain ⟨hi', rfl, rfl⟩ | ⟨hk1', hn'⟩ := h.row_cases_of_puts hl hk' hv'
    · rfl
    · exact absurd ⟨hi, ht ▸ hl.tag⟩ hn'
    · exact absurd ⟨hi', ht.trans hl.tag⟩ hn
    · exact h.unique _ _ _ _ _ hk1 hk1' hv hv' ht
  case addressed =>
    intro index w k hk hv
    rw [hl.params]
    obtain ⟨rfl, rfl, rfl⟩ | ⟨hk1, _⟩ := h.row_cases_of_puts hl hk hv
    · rw [haddr]; exact lt_of_le_of_lt (Nat.div_mul_le_self _ _) pa.isLt
    · exact h.addressed index w k hk1 hv
  case clean =>
    intro index w k hk hv hd
    rw [hl.params]
    obtain ⟨rfl, rfl, rfl⟩ | ⟨hk1, hn⟩ := h.row_cases_of_puts hl hk hv
    · rw [haddr]; exact hclean hd
    · have hne : k.address Config.dline s.params.dcacheRows index ≠ lineBase Config.dline pa :=
        fun hx => hn ((h.address_eq_iff hk1 pa).1 hx)
      refine .inr fun i hi => ?_
      rw [(h.clean index w k hk1 hv hd).resolve_left (fun hx => hne (he _ hx)) i hi, hl.pmem]
      simp only [Line.address, lineBase, Config.dline] at hne ⊢
      omega
  case undirtied =>
    intro hwb index w k hk
    have hwb' : s.writeBack = false := by rw [← hwb]; unfold State.writeBack; rw [hl.params]
    rw [h.row_of_puts hl] at hk
    split at hk
    · cases hk; exact hl.undirtied hwb'
    · exact h.undirtied hwb' index w k hk

/-- In the line of `pa` the data side then sees the line put there (R96). -/
theorem Coherent.viewByte_of_puts {exempt' : Nat → Prop} (h : Coherent s exempt) (h' : Coherent t exempt')
    (hl : PutsLine s t pa way l) {a : PAddr} (ha : a.toNat / 8 = pa.toNat / 8) :
    t.viewByte a = l.data.getD (a.toNat % 8) none := by
  obtain ⟨hi, ht⟩ := (sameLine_iff s a pa).2 ha
  refine h'.viewByte_of_holds (way := way) ⟨?_, hl.valid, ?_⟩
  · rw [State.dIndex_congr hl.params, hi, h.row_of_puts hl, if_pos ⟨rfl, rfl⟩]
  · rw [State.dTag_congr hl.params, ht]; exact hl.tag

/-- Outside it the data side sees what it saw before: a way that held the address still does, but for the victim, whose
bytes the backing store holds (R99). -/
theorem Coherent.viewByte_of_puts_ne {exempt' : Nat → Prop} (h : Coherent s exempt) (h' : Coherent t exempt')
    (he : ∀ a, exempt a → a = lineBase Config.dline pa) (hl : PutsLine s t pa way l) {a : PAddr}
    (ha : a.toNat / 8 ≠ pa.toNat / 8) : t.viewByte a = s.viewByte a := by
  have hn : ¬(s.dIndex a = s.dIndex pa ∧ s.dTag a = s.dTag pa) := fun hx => ha ((sameLine_iff s a pa).1 hx)
  have hholds : ∀ w k, t.holds a w k ↔ s.holds a w k ∧ ¬(s.dIndex a = s.dIndex pa ∧ w = way) := by
    intro w k
    unfold State.holds
    rw [State.dIndex_congr hl.params, State.dTag_congr hl.params]
    constructor
    · rintro ⟨hk, hv, ht⟩
      rw [h.row_of_puts hl] at hk
      split at hk
      · next hx => cases hk; exact absurd ⟨hx.1, ht.symm.trans hl.tag⟩ hn
      · next hx => exact ⟨⟨hk, hv, ht⟩, hx⟩
    · rintro ⟨⟨hk, hv, ht⟩, hx⟩
      exact ⟨by rw [h.row_of_puts hl, if_neg hx]; exact hk, hv, ht⟩
  by_cases hmiss : s.dMisses a
  · have hmiss' : t.dMisses a := State.dMisses_iff.2 fun w k hk => State.dMisses_iff.1 hmiss w k ((hholds w k).1 hk).1
    rw [State.viewByte_of_dMisses hmiss, State.viewByte_of_dMisses hmiss', hl.pmem _ ha]
  · rw [State.dMisses_iff] at hmiss
    push Not at hmiss
    obtain ⟨w, k, hk⟩ := hmiss
    by_cases hx : s.dIndex a = s.dIndex pa ∧ w = way
    · -- `k` is the victim: clean, so the backing store's
      have hmiss' : t.dMisses a := by
        refine State.dMisses_iff.2 fun w' k' hk' => ?_
        obtain ⟨hk1, hx'⟩ := (hholds w' k').1 hk'
        exact hx' ⟨hx.1, (h.unique _ _ _ _ _ hk1.1 hk.1 hk1.2.1 hk.2.1 (hk1.2.2.trans hk.2.2.symm)).trans hx.2⟩
      have hd := hl.victim k (hx.1 ▸ hx.2 ▸ hk.1) hk.2.1 fun ht => hn ⟨hx.1, hk.2.2.symm.trans ht⟩
      have hne : lineBase Config.dline a ≠ lineBase Config.dline pa := by simp only [lineBase, Config.dline]; omega
      rw [State.viewByte_of_dMisses hmiss', hl.pmem _ ha, h.viewByte_of_clean hk hd fun hb => hne (he _ hb)]
    · rw [h'.viewByte_of_holds ((hholds w k).2 ⟨hk, hx⟩), h.viewByte_of_holds hk]

/-! ## Writing a victim back -/

/-- A step of the data side that writes a row's line back and makes the row invalid (R99). -/
structure EvictsLine (s t : State) (index way : Nat) (l : Line) : Prop where
  params : t.params = s.params
  row : s.dcache.row index way = some l
  valid : l.valid = true
  dcache : t.dcache = s.dcache.setLine index way { l with valid := false, dirty := false }
  pmem : t.pmem = s.pmem.writeBytes (l.address Config.dline s.params.dcacheRows index) l.data

variable {index : Nat}

theorem Coherent.row_of_evicts (h : Coherent s exempt) (hl : EvictsLine s t index way l) (i w : Nat) :
    t.dcache.row i w =
      if i = index ∧ w = way then some { l with valid := false, dirty := false } else s.dcache.row i w := by
  rw [hl.dcache, Cache.row_setLine]
  rw [h.ways index (h.lt_of_row hl.row).1]
  exact (h.lt_of_row hl.row).2

/-- The backing store then holds the line at its address, and is otherwise unchanged. -/
theorem Coherent.read_of_evicts (h : Coherent s exempt) (hl : EvictsLine s t index way l) (a : Nat) :
    t.pmem.read a =
      if a / 8 * 8 = l.address Config.dline s.params.dcacheRows index then l.data.getD (a % 8) none
      else s.pmem.read a := by
  rw [hl.pmem, Memory.read_writeBytes _ _ _ _ h.pmem_wf, h.lineSize _ _ _ hl.row]
  have haligned : l.address Config.dline s.params.dcacheRows index % 8 = 0 := Nat.mul_mod_left _ _
  by_cases hq : a / 8 * 8 = l.address Config.dline s.params.dcacheRows index
  · rw [if_pos (by omega), if_pos hq]
    congr 1
    omega
  · rw [if_neg (by omega), if_neg hq]

/-- A valid row afterwards is a row from before, of another line than the victim's. -/
theorem Coherent.row_valid_of_evicts (h : Coherent s exempt) (hl : EvictsLine s t index way l) {i w : Nat} {k : Line} :
    t.dcache.row i w = some k ∧ k.valid = true ↔
      s.dcache.row i w = some k ∧ k.valid = true ∧ ¬(i = index ∧ k.tag = l.tag) := by
  rw [h.row_of_evicts hl]
  constructor
  · rintro ⟨hk, hv⟩
    split at hk
    · cases hk; cases hv
    · next hx =>
      refine ⟨hk, hv, ?_⟩
      rintro ⟨rfl, ht⟩
      exact hx ⟨rfl, h.unique _ _ _ _ _ hk hl.row hv hl.valid ht⟩
  · rintro ⟨hk, hv, hx⟩
    refine ⟨?_, hv⟩
    rw [if_neg, hk]
    rintro ⟨rfl, rfl⟩
    exact hx ⟨rfl, by rw [Option.some.inj (hk.symm.trans hl.row)]⟩

/-- Lines of two different sets or tags have different addresses. -/
theorem Coherent.address_ne (h : Coherent s exempt) {i w : Nat} {k : Line} (hk : s.dcache.row i w = some k)
    (hl : s.dcache.row index way = some l) (hne : ¬(i = index ∧ k.tag = l.tag)) :
    k.address Config.dline s.params.dcacheRows i ≠ l.address Config.dline s.params.dcacheRows index := by
  intro ha
  have hq : i + s.params.dcacheRows * k.tag = index + s.params.dcacheRows * l.tag := by
    simp only [Line.address, Config.dline] at ha
    rw [Nat.mul_comm _ k.tag, Nat.mul_comm _ l.tag]
    omega
  obtain ⟨htag, hindex⟩ := (Nat.div_mod_unique h.rows_pos).2 ⟨hq, (h.lt_of_row hk).1⟩
  obtain ⟨htag', hindex'⟩ := (Nat.div_mod_unique h.rows_pos).2 ⟨rfl, (h.lt_of_row hl).1⟩
  exact hne ⟨hindex.symm.trans hindex', htag.symm.trans htag'⟩

/-- A write-back keeps the coherence: the clean lines are of other addresses. -/
theorem Coherent.evicts (h : Coherent s exempt) (hl : EvictsLine s t index way l) : Coherent t exempt := by
  constructor
  case params_wf => rw [hl.params]; exact h.params_wf
  case pmem_wf => rw [hl.pmem]; exact Memory.wf_writeBytes _ _ _ h.pmem_wf
  case rows => rw [hl.dcache, Cache.length_setLine, hl.params, h.rows]
  case ways =>
    intro i hi
    rw [hl.params] at hi ⊢
    rw [hl.dcache, Cache.length_ways_setLine_any, h.ways i hi]
  case lineSize =>
    intro i w k hk
    rw [h.row_of_evicts hl] at hk
    split at hk
    · cases hk; exact h.lineSize index way l hl.row
    · exact h.lineSize i w k hk
  case unique =>
    intro i w w' k k' hk hk' hv hv' ht
    exact h.unique _ _ _ _ _ ((h.row_valid_of_evicts hl).1 ⟨hk, hv⟩).1 ((h.row_valid_of_evicts hl).1 ⟨hk', hv'⟩).1 hv hv' ht
  case addressed =>
    intro i w k hk hv
    rw [hl.params]
    exact h.addressed i w k ((h.row_valid_of_evicts hl).1 ⟨hk, hv⟩).1 hv
  case clean =>
    intro i w k hk hv hd
    obtain ⟨hk1, _, hne⟩ := (h.row_valid_of_evicts hl).1 ⟨hk, hv⟩
    rw [hl.params]
    refine (h.clean i w k hk1 hv hd).imp_right fun hb j hj => ?_
    have ha := h.address_ne hk1 hl.row hne
    rw [hb j hj, h.read_of_evicts hl, if_neg]
    simp only [Line.address, Config.dline] at ha ⊢
    omega
  case undirtied =>
    intro hwb i w k hk
    have hwb' : s.writeBack = false := by rw [← hwb]; unfold State.writeBack; rw [hl.params]
    rw [h.row_of_evicts hl] at hk
    split at hk
    · cases hk; rfl
    · exact h.undirtied hwb' i w k hk

/-- A way holds an address after the write-back as before, unless it is the victim's. -/
theorem Coherent.holds_of_evicts (h : Coherent s exempt) (hl : EvictsLine s t index way l) (a : PAddr) (w : Nat) (k : Line) :
    t.holds a w k ↔ s.holds a w k ∧ lineBase Config.dline a ≠ l.address Config.dline s.params.dcacheRows index := by
  have hiff := Line.address_eq_lineBase_iff h.rows_pos (h.lt_of_row hl.row).1 l a
  unfold State.holds
  rw [State.dIndex_congr hl.params, State.dTag_congr hl.params, ← and_assoc, h.row_valid_of_evicts hl]
  constructor
  · rintro ⟨⟨hk, hv, hx⟩, ht⟩
    exact ⟨⟨hk, hv, ht⟩, fun hb => hx ⟨(hiff.1 hb.symm).1.symm, ht.trans (hiff.1 hb.symm).2.symm⟩⟩
  · rintro ⟨⟨hk, hv, ht⟩, hb⟩
    exact ⟨⟨hk, hv, fun hx => hb (hiff.2 ⟨hx.1.symm, hx.2.symm.trans ht⟩).symm⟩, ht⟩

/-- A write-back changes nothing the data side sees: the victim's bytes are now the backing store's (R99). -/
theorem Coherent.viewByte_of_evicts (h : Coherent s exempt) (hl : EvictsLine s t index way l) (a : PAddr) :
    t.viewByte a = s.viewByte a := by
  have hholds := h.holds_of_evicts hl a
  have hread := h.read_of_evicts hl a.toNat
  change t.pmem.read a.toNat = if lineBase Config.dline a = _ then _ else _ at hread
  by_cases hb : lineBase Config.dline a = l.address Config.dline s.params.dcacheRows index
  · have hmiss : t.dMisses a := State.dMisses_iff.2 fun w k hk => ((hholds w k).1 hk).2 hb
    obtain ⟨rfl, ht⟩ := (Line.address_eq_lineBase_iff h.rows_pos (h.lt_of_row hl.row).1 l a).1 hb.symm
    rw [State.viewByte_of_dMisses hmiss, hread, if_pos hb, h.viewByte_of_holds ⟨hl.row, hl.valid, ht⟩]
  · rw [if_neg hb] at hread
    by_cases hmiss : s.dMisses a
    · have hmiss' : t.dMisses a := State.dMisses_iff.2 fun w k hk => State.dMisses_iff.1 hmiss w k ((hholds w k).1 hk).1
      rw [State.viewByte_of_dMisses hmiss, State.viewByte_of_dMisses hmiss', hread]
    · rw [State.dMisses_iff] at hmiss
      push Not at hmiss
      obtain ⟨w, k, hk⟩ := hmiss
      rw [(h.evicts hl).viewByte_of_holds ((hholds w k).2 ⟨hk, hb⟩), h.viewByte_of_holds hk]

end

end Sys2Proof.Machine

namespace Sys2Proof.Machine

/-! ## The part of the invariant that the data side keeps by itself -/

/-- The data side is coherent, but for the line of an 8-byte store that is being written through, and its status belongs to
the access in `M`. -/
structure DataInv (s : State) : Prop where
  coherent : Coherent s fun a => s.writingThrough a = true
  status : s.statusOfM = true

/-- The block's structural invariant gives the data side's part of it. -/
theorem Inv.dataInv {s : State} (h : Inv s) : DataInv s := by
  obtain ⟨hmem, -, hstatus, -⟩ := h
  simp only [State.memoryInv, Bool.and_eq_true, Bool.or_eq_true] at hmem
  obtain ⟨⟨⟨⟨⟨⟨⟨⟨⟨⟨⟨⟨⟨⟨hwf, hpmem⟩, -⟩, -⟩, -⟩, -⟩, -⟩, hshaped⟩, hunique⟩, haddressed⟩, -⟩, -⟩, hclean⟩, -⟩, hdirty⟩ := hmem
  obtain ⟨hrows, hways, hsize⟩ := Cache.shaped_iff.1 hshaped
  refine ⟨?_, hstatus⟩
  constructor
  case params_wf => exact hwf
  case pmem_wf => exact hpmem
  case rows => exact hrows
  case ways => exact hways
  case lineSize => exact hsize
  case unique => exact fun _ _ _ _ _ hl hl' hv hv' ht => Cache.unique_of_uniqueTags hunique hl hl' hv hv' ht
  case addressed =>
    exact fun index way l hl hv => of_decide_eq_true (Cache.allValid_iff.1 haddressed index way l hl hv)
  case clean =>
    intro index way l hl hv hd
    have hmatch := Cache.allValid_iff.1 hclean index way l hl hv
    simp only [hd, Bool.false_or, Bool.or_eq_true, beq_iff_eq] at hmatch
    exact hmatch.imp_right fun hb => (eq_readBytes_iff (hsize index way l hl)).1 hb
  case undirtied =>
    intro hwb index way l hl
    have hall := hdirty.resolve_left (by simp [hwb])
    simpa using Cache.all_rows_iff.1 hall index way l hl

section
variable {s t u : State} {exempt : Nat → Prop} {pa : PAddr} {way : Nat}

/-- Without an access in progress only the coherence is left to show. -/
theorem DataInv.of_idle (h : Coherent t fun _ => False) (hms : t.ms = .idle) : DataInv t :=
  ⟨h.mono fun _ hf => hf.elim, by simp [State.statusOfM, hms]⟩

/-- Only an 8-byte store in `DWriteThrough` has a line that runs ahead of the backing store. -/
theorem State.writingThrough_iff {a : Nat} : s.writingThrough a = true ↔
    ∃ pc va value q issued, s.m = .store pc va .b8 value ∧ s.ms = .dWriteThrough q issued ∧ a = lineBase Config.dline q := by
  unfold State.writingThrough
  split
  · next hm hms => simp [hm, hms]
  · next hne =>
    refine ⟨fun h => Bool.noConfusion h, ?_⟩
    rintro ⟨pc, va, value, q, issued, hm, hms, -⟩
    exact (hne _ _ _ _ _ hm hms).elim

/-- The invariant speaks of the data cache, the backing store, the parameters and the status, and while an access is in
progress of latch `M`. -/
theorem DataInv.congr (h : DataInv s) (hc : t.dcache = s.dcache) (hp : t.pmem = s.pmem) (hpar : t.params = s.params)
    (hms : t.ms = s.ms) (hm : t.m = s.m ∨ s.ms = .idle) : DataInv t := by
  obtain hm | hidle := hm
  · have hst : t.statusOfM = s.statusOfM := by
      unfold State.statusOfM State.accessAt State.dLine State.dIndex State.dTag State.writeBack
      rw [hc, hpar, hms, hm]
    refine ⟨(h.coherent.congr hc hp hpar).mono fun a ha => ?_, hst.trans h.status⟩
    rw [State.writingThrough_iff] at ha ⊢
    rwa [hm, hms]
  · refine .of_idle ((h.coherent.congr hc hp hpar).mono fun a ha => ?_) (hms.trans hidle)
    rw [State.writingThrough_iff] at ha
    simp [hidle] at ha

/-! ## What the data side sees, before and after -/

/-- The data side sees the same bytes in `t` as in `s`. -/
def State.sameView (s t : State) : Prop := ∀ a, t.viewByte a = s.viewByte a

/-- The data side sees in `t` what it saw in `s` with the bytes of a store replaced (R103, R104). -/
def State.viewStored (s t : State) (pa : PAddr) (size : AccessSize) (value : Word) : Prop :=
  ∀ a, t.viewByte a = if inAccess pa size.bytes a then some (storedByteAt pa value a) else s.viewByte a

theorem State.sameView.refl (s : State) : s.sameView s := fun _ => rfl

theorem State.sameView.trans (h : s.sameView t) (k : t.sameView u) : s.sameView u := fun a => (k a).trans (h a)

theorem State.sameView.trans_viewStored {size : AccessSize} {value : Word} (h : s.sameView t)
    (k : t.viewStored u pa size value) : s.viewStored u pa size value := fun a => by rw [k a, h a]

theorem State.viewStored.trans_sameView {size : AccessSize} {value : Word} (h : s.viewStored t pa size value)
    (k : t.sameView u) : s.viewStored u pa size value := fun a => by rw [k a, h a]

/-- A store performed twice is performed once. -/
theorem State.viewStored.trans_self {size : AccessSize} {value : Word} (h : s.viewStored t pa size value)
    (k : t.viewStored u pa size value) : s.viewStored u pa size value := fun a => by
  rw [k a, h a]
  split
  · rfl
  · rfl

/-- The view is that of the data cache, the backing store and the parameters. -/
theorem State.sameView.of_eq (hc : t.dcache = s.dcache) (hm : t.pmem = s.pmem) (hp : t.params = s.params) :
    s.sameView t := by
  intro a
  unfold State.viewByte State.dLine State.dIndex State.dTag
  rw [hc, hm, hp]

theorem State.sameView.viewBytes (h : s.sameView t) (pa : PAddr) (n : Nat) : t.viewBytes pa n = s.viewBytes pa n := by
  induction n generalizing pa with
  | zero => rfl
  | succ n ih => simp only [State.viewBytes, h pa, ih]

theorem State.getElem?_viewBytes (s : State) (pa : PAddr) (n k : Nat) :
    (s.viewBytes pa n)[k]? = if k < n then some (s.viewByte (pa + BitVec.ofNat 32 k)) else none := by
  induction n generalizing pa k with
  | zero => simp [State.viewBytes]
  | succ n ih =>
    cases k with
    | zero => simp [State.viewBytes]
    | succ k =>
      simp only [State.viewBytes, List.getElem?_cons_succ, ih, Nat.add_lt_add_iff_right]
      congr 3
      rw [BitVec.add_assoc, ← BitVec.ofNat_add, Nat.add_comm]

/-! ## An access in its line (R67, R68) -/

/-- The access a memory-stage descriptor asks for is the one in latch `M`. -/
def State.asks (s : State) : DataOp → Prop
  | .load size => ∃ pc rd va signed, s.m = .load pc rd va size signed
  | .store size value => ∃ pc va, s.m = .store pc va size value

theorem State.asks.access {op : DataOp} (h : s.asks op) : ∃ va, s.m.access = some (va, op.size) := by
  cases op with
  | load size => obtain ⟨pc, rd, va, signed, hm⟩ := h; exact ⟨va, by rw [hm]; rfl⟩
  | store size value => obtain ⟨pc, va, hm⟩ := h; exact ⟨va, by rw [hm]; rfl⟩

theorem State.asks.congr {op : DataOp} (h : s.asks op) (hm : t.m = s.m) : t.asks op := by
  unfold State.asks at h ⊢
  rwa [hm]

theorem State.accessAt_congr (hm : t.m = s.m) (pa : PAddr) : t.accessAt pa = s.accessAt pa := by
  unfold State.accessAt; rw [hm]

theorem samePageOffset_mod {va : Word} (h : samePageOffset pa va = true) : pa.toNat % 8 = va.toNat % 8 := by
  have hoff : pa.setWidth 14 = va.setWidth 14 := by simpa [samePageOffset] using h
  have hmod := congrArg BitVec.toNat hoff
  simp only [BitVec.toNat_setWidth] at hmod
  omega

/-- An access stays inside the 8-byte line of its physical address (R68). -/
theorem State.fits_of_accessAt {op : DataOp} (h : s.accessAt pa = true) (hop : s.asks op) :
    pa.toNat % 8 + op.size.bytes ≤ 8 := by
  obtain ⟨va, hva⟩ := hop.access
  simp only [State.accessAt, hva, Bool.and_eq_true, Bool.not_eq_true'] at h
  have hmis := (misalignedData_iff va op.size).not.1 (by simp [h.2])
  have hpos : op.size.bytes = 1 ∨ 1 < op.size.bytes := by cases op.size <;> simp [AccessSize.bytes]
  rw [samePageOffset_mod h.1]
  omega

/-- The bytes of an access are consecutive bytes of its line. -/
theorem inAccess_iff {n : Nat} (hfit : pa.toNat % 8 + n ≤ 8) (a : PAddr) :
    inAccess pa n a = true ↔ a.toNat / 8 = pa.toNat / 8 ∧ pa.toNat % 8 ≤ a.toNat % 8 ∧ a.toNat % 8 < pa.toNat % 8 + n := by
  simp only [inAccess, Bool.and_eq_true, decide_eq_true_eq]
  omega

theorem toNat_add_of_fits {n k : Nat} (hfit : pa.toNat % 8 + n ≤ 8) (hk : k < n) :
    (pa + BitVec.ofNat 32 k).toNat = pa.toNat + k := by
  have := pa.isLt
  rw [BitVec.toNat_add, BitVec.toNat_ofNat]
  omega

/-- The slice a load reads holds the bytes the data side sees at its address (R96). -/
theorem Coherent.slice_eq_viewBytes (h : Coherent s exempt) {l : Line} (hl : s.holds pa way l) {n : Nat}
    (hfit : pa.toNat % 8 + n ≤ 8) : slice l.data (lineOffset Config.dline pa) n = s.viewBytes pa n := by
  refine List.ext_getElem? fun k => ?_
  rw [State.getElem?_viewBytes]
  simp only [slice, List.getElem?_take, List.getElem?_drop, lineOffset, Config.dline]
  split
  · next hk =>
    have hto := toNat_add_of_fits hfit hk
    have hline : (pa + BitVec.ofNat 32 k).toNat / 8 = pa.toNat / 8 := by omega
    obtain ⟨hi, ht⟩ := (sameLine_iff s _ _).2 hline
    have hholds : s.holds (pa + BitVec.ofNat 32 k) way l := ⟨hi ▸ hl.1, hl.2.1, ht ▸ hl.2.2⟩
    have hsize := h.lineSize _ _ _ hl.1
    rw [h.viewByte_of_holds hholds, List.getElem?_eq_getElem (by omega), List.getD_eq_getElem _ _ (by omega)]
    congr 2
    omega
  · rfl

/-! ## A store that hits (R103, R104) -/

/-- The line a store makes of the one it hits. -/
def State.storedLine (s : State) (pa : PAddr) (way : Nat) (size : AccessSize) (value : Word) : Line :=
  { s.dLine pa way with
    data := putSlice (s.dLine pa way).data (lineOffset Config.dline pa) (knownBytes size value)
    dirty := s.writeBack || (s.dLine pa way).dirty }

variable {size : AccessSize} {value : Word}

/-- A byte of the line is the store's in its slice, and otherwise as it was. -/
theorem Coherent.getD_storedLine (h : Coherent s exempt) (hl : s.holds pa way (s.dLine pa way))
    (hfit : pa.toNat % 8 + size.bytes ≤ 8) (k : Nat) :
    (s.storedLine pa way size value).data.getD k none =
      if pa.toNat % 8 ≤ k ∧ k < pa.toNat % 8 + size.bytes then (knownBytes size value).getD (k - pa.toNat % 8) none
      else (s.dLine pa way).data.getD k none := by
  have hput := getD_putSlice (data := (s.dLine pa way).data) (bytes := knownBytes size value)
    (offset := lineOffset Config.dline pa) (by rw [h.lineSize _ _ _ hl.1, length_knownBytes]; exact hfit) k
  rw [length_knownBytes] at hput
  exact hput

theorem Coherent.puts_storedLine (h : Coherent s exempt) (hl : s.holds pa way (s.dLine pa way))
    (hfit : pa.toNat % 8 + size.bytes ≤ 8) (hp : t.params = s.params)
    (hc : t.dcache = s.dcache.setLine (s.dIndex pa) way (s.storedLine pa way size value)) (hwf : t.pmem.wf = true)
    (hm : ∀ a, a / 8 ≠ pa.toNat / 8 → t.pmem.read a = s.pmem.read a) :
    PutsLine s t pa way (s.storedLine pa way size value) where
  params := hp
  dcache := hc
  pmem_wf := hwf
  pmem := hm
  way_lt := (h.lt_of_row hl.1).2
  valid := hl.2.1
  tag := hl.2.2
  lineSize := by
    have hlen := length_putSlice (data := (s.dLine pa way).data) (bytes := knownBytes size value)
      (offset := lineOffset Config.dline pa) (by rw [h.lineSize _ _ _ hl.1, length_knownBytes]; exact hfit)
    exact hlen.trans (h.lineSize _ _ _ hl.1)
  undirtied := fun hwb => by
    show (s.writeBack || (s.dLine pa way).dirty) = false
    rw [hwb, h.undirtied hwb _ _ _ hl.1, Bool.or_false]
  only := fun w k hk => h.unique _ _ _ _ _ hk.1 hl.1 hk.2.1 hl.2.1 (hk.2.2.trans hl.2.2.symm)
  victim := fun k hk _ ht => by
    rw [← Option.some.inj (hl.1.symm.trans hk)] at ht
    exact absurd hl.2.2 ht

/-- The data side then sees the bytes of the store, and every other byte as before. -/
theorem Coherent.viewStored_of_puts {exempt' : Nat → Prop} (h : Coherent s exempt) (h' : Coherent t exempt')
    (he : ∀ a, exempt a → a = lineBase Config.dline pa) (hl : s.holds pa way (s.dLine pa way))
    (hfit : pa.toNat % 8 + size.bytes ≤ 8) (hputs : PutsLine s t pa way (s.storedLine pa way size value)) :
    s.viewStored t pa size value := by
  intro a
  have hin := inAccess_iff hfit a
  by_cases hline : a.toNat / 8 = pa.toNat / 8
  · obtain ⟨hi, ht⟩ := (sameLine_iff s a pa).2 hline
    have hholds : s.holds a way (s.dLine pa way) := ⟨hi ▸ hl.1, hl.2.1, hl.2.2.trans ht.symm⟩
    rw [h.viewByte_of_puts h' hputs hline, h.getD_storedLine hl hfit]
    by_cases hacc : inAccess pa size.bytes a = true
    · rw [if_pos (hin.1 hacc).2, if_pos hacc, ← getD_knownBytes hacc]
      congr 1
      have := (hin.1 hacc).2
      omega
    · rw [if_neg fun hx => hacc (hin.2 ⟨hline, hx⟩), if_neg hacc, h.viewByte_of_holds hholds]
  · rw [h.viewByte_of_puts_ne h' he hputs hline, if_neg fun hacc => hline (hin.1 hacc).1]

/-- The one line that may run ahead of the backing store: that of an 8-byte store, at the store's own address. -/
def exemptFor (op : DataOp) (pa : PAddr) (a : Nat) : Prop :=
  (∃ value, op = .store .b8 value) ∧ a = lineBase Config.dline pa

/-- A store that hits under write-back keeps the coherence: its line is dirty (R103). -/
theorem Coherent.store_writeBack (h : Coherent s (exemptFor (.store size value) pa))
    (hl : s.holds pa way (s.dLine pa way)) (hfit : pa.toNat % 8 + size.bytes ≤ 8) (hwb : s.writeBack = true)
    (hp : t.params = s.params) (hc : t.dcache = s.dcache.setLine (s.dIndex pa) way (s.storedLine pa way size value))
    (hm : t.pmem = s.pmem) : Coherent t (fun _ => False) ∧ s.viewStored t pa size value := by
  have hputs := h.puts_storedLine hl hfit hp hc (hm ▸ h.pmem_wf) fun a _ => by rw [hm]
  have hcoh : Coherent t fun _ => False :=
    h.puts (fun _ ha => ha.2) hputs fun hd => by simp [State.storedLine, hwb] at hd
  exact ⟨hcoh, h.viewStored_of_puts hcoh (fun _ ha => ha.2) hl hfit hputs⟩

/-- A store that hits under write-through keeps the coherence: its bytes are in the line and in the backing store (R104). -/
theorem Coherent.store_writeThrough (h : Coherent s (exemptFor (.store size value) pa))
    (hl : s.holds pa way (s.dLine pa way)) (hfit : pa.toNat % 8 + size.bytes ≤ 8) (hwb : s.writeBack = false)
    (hp : t.params = s.params) (hc : t.dcache = s.dcache.setLine (s.dIndex pa) way (s.storedLine pa way size value))
    (hm : t.pmem = s.pmem.writeBytes pa.toNat (knownBytes size value)) :
    Coherent t (fun _ => False) ∧ s.viewStored t pa size value := by
  have hread : ∀ a, t.pmem.read a =
      if pa.toNat ≤ a ∧ a < pa.toNat + size.bytes then (knownBytes size value).getD (a - pa.toNat) none
      else s.pmem.read a := by
    intro a
    rw [hm, Memory.read_writeBytes _ _ _ _ h.pmem_wf, length_knownBytes]
  have hputs := h.puts_storedLine hl hfit hp hc (hm ▸ Memory.wf_writeBytes _ _ _ h.pmem_wf) fun a ha => by
    rw [hread, if_neg (by omega)]
  have hmatch : ∀ k < 8, (s.storedLine pa way size value).data.getD k none = t.pmem.read (lineBase Config.dline pa + k) := by
    intro k hk
    rw [h.getD_storedLine hl hfit, hread]
    have hbase : lineBase Config.dline pa = pa.toNat / 8 * 8 := rfl
    by_cases hin : pa.toNat % 8 ≤ k ∧ k < pa.toNat % 8 + size.bytes
    · rw [if_pos hin, if_pos (by omega)]
      congr 1
      omega
    · rw [if_neg hin, if_neg (by omega)]
      have hd := h.undirtied hwb _ _ _ hl.1
      have haddr := (h.address_eq_iff hl.1 pa).2 ⟨rfl, hl.2.2⟩
      have hclean := h.clean _ _ _ hl.1 hl.2.1 hd
      rw [haddr] at hclean
      refine hclean.resolve_left ?_ k hk
      rintro ⟨⟨v, hv⟩, -⟩
      cases hv
      simp only [AccessSize.bytes] at hin hfit
      omega
  have hcoh : Coherent t fun _ => False := h.puts (fun _ ha => ha.2) hputs fun _ => .inr hmatch
  exact ⟨hcoh, h.viewStored_of_puts hcoh (fun _ ha => ha.2) hl hfit hputs⟩

end

end Sys2Proof.Machine

namespace Sys2Proof.Machine

/-! ## A cycle of the data cache (R96 to R108) -/

/-- What a served access does to what the data side sees, and the bytes it delivers: a load reads them, a store replaces
them (R96, R103, R104). -/
def State.performs (s t : State) (pa : PAddr) (bytes : List (Option Byte)) : DataOp → Prop
  | .load size => s.sameView t ∧ bytes = s.viewBytes pa size.bytes
  | .store size value => s.viewStored t pa size value

/-- A cycle of the data side that keeps the invariant and performs the access when it serves it. While the access goes on the
data side sees what it saw, but for the early install of assumption 10. -/
def DataResult.Serves (s : State) (op : DataOp) (pa : PAddr) : DataResult → Prop
  | .served t bytes _ => t.ms = .idle ∧ DataInv t ∧ s.performs t pa bytes op
  | .stall t => DataInv t ∧
      (s.sameView t ∨
        ∃ value issued, op = .store .b8 value ∧ t.ms = .dWriteThrough pa issued ∧ s.viewStored t pa .b8 value)
  | .stop _ => True

section
variable {s t : State} {op : DataOp} {pa : PAddr} {way : Nat} {exempt : Nat → Prop}

/-- What was done before without a change of view is part of the cycle. -/
theorem DataResult.Serves.of_sameView {r : DataResult} (hst : s.sameView t) (h : r.Serves t op pa) : r.Serves s op pa := by
  cases r with
  | stop x => trivial
  | stall u =>
    obtain ⟨hinv, hview | ⟨value, issued, hop, hms, hview⟩⟩ := h
    · exact ⟨hinv, .inl (hst.trans hview)⟩
    · exact ⟨hinv, .inr ⟨value, issued, hop, hms, hst.trans_viewStored hview⟩⟩
  | served u bytes spent =>
    obtain ⟨hms, hinv, hperf⟩ := h
    refine ⟨hms, hinv, ?_⟩
    cases op with
    | load size => exact ⟨hst.trans hperf.1, hperf.2.trans (hst.viewBytes pa _)⟩
    | store size value => exact hst.trans_viewStored hperf

theorem State.dMisses_congr (hc : t.dcache = s.dcache) (hp : t.params = s.params) (pa : PAddr) :
    t.dMisses pa ↔ s.dMisses pa := by
  unfold State.dMisses
  rw [hc, State.dIndex_congr hp, State.dTag_congr hp]

/-- The line put there is the one its address's way then reads as. -/
theorem Coherent.holds_of_puts {l : Line} (h : Coherent s exempt) (hl : PutsLine s t pa way l) :
    t.holds pa way (t.dLine pa way) := by
  have hrow : t.dcache.row (t.dIndex pa) way = some l := by
    rw [State.dIndex_congr hl.params, h.row_of_puts hl, if_pos ⟨rfl, rfl⟩]
  rw [State.dLine, Cache.line_of_row hrow]
  exact ⟨hrow, hl.valid, by rw [State.dTag_congr hl.params, hl.tag]⟩

/-- A cycle that waits keeps the invariant when its status belongs to the access. -/
theorem Coherent.dataInv (h : Coherent s fun _ => False) (hc : t.dcache = s.dcache) (hm : t.pmem = s.pmem)
    (hp : t.params = s.params) (hst : t.statusOfM = true) : DataInv t :=
  ⟨(h.congr hc hm hp).mono fun _ hf => hf.elim, hst⟩

/-! ### Serving a hit -/

/-- A store waits with its write pending: only the status changes (R104). -/
theorem Coherent.waits_writeThrough {size : AccessSize} {value : Word} (h : Coherent s (exemptFor (.store size value) pa))
    (hop : s.asks (.store size value)) (hacc : s.accessAt pa = true) (hl : s.holds pa way (s.dLine pa way))
    (hwb : s.writeBack = false) (hc : t.dcache = s.dcache) (hm : t.pmem = s.pmem) (hp : t.params = s.params)
    (hM : t.m = s.m) {issued : Bool} (hms : t.ms = .dWriteThrough pa issued) : DataInv t := by
  obtain ⟨pc, va, hstore⟩ := hop
  constructor
  case coherent =>
    refine (h.congr hc hm hp).mono ?_
    rintro a ⟨⟨v, hv⟩, rfl⟩
    cases hv
    exact State.writingThrough_iff.2 ⟨pc, va, value, pa, issued, hM.trans hstore, hms, rfl⟩
  case status =>
    have hhit : ¬t.dMisses pa := by
      rw [State.dMisses_congr hc hp, State.dMisses_iff]
      exact fun hmiss => hmiss way _ hl
    have hwb' : t.writeBack = false := by rw [← hwb]; unfold State.writeBack; rw [hp]
    simp [State.statusOfM, hms, State.accessAt_congr hM, hacc, hwb', hM, hstore, Option.isSome_iff_ne_none]
    exact hhit

theorem writeThroughStep_serves {size : AccessSize} {value : Word} (h : Coherent s (exemptFor (.store size value) pa))
    (hop : s.asks (.store size value)) (hacc : s.accessAt pa = true) (hl : s.holds pa way (s.dLine pa way))
    (hwb : s.writeBack = false) (issued spent : Bool) :
    (writeThroughStep s pa way size value issued spent).Serves s (.store size value) pa := by
  unfold writeThroughStep
  cases spent
  case true => exact ⟨h.waits_writeThrough hop hacc hl hwb rfl rfl rfl rfl rfl, .inl (.of_eq rfl rfl rfl)⟩
  obtain ⟨_, hw⟩ | ⟨_, latency, hw | hw⟩ := physWrite_cases s issued pa.toNat (knownBytes size value)
  · rw [if_neg Bool.false_ne_true, hw]; trivial
  · rw [if_neg Bool.false_ne_true, hw]
    exact ⟨h.waits_writeThrough hop hacc hl hwb rfl rfl rfl rfl rfl, .inl (.of_eq rfl rfl rfl)⟩
  · rw [if_neg Bool.false_ne_true, hw]
    obtain ⟨hcoh, hview⟩ := h.store_writeThrough hl (State.fits_of_accessAt hacc hop) hwb
      (t := { mutateLine { s with latency := latency, calls := s.calls + 1,
                                  pmem := s.pmem.writeBytes pa.toNat (knownBytes size value) } pa way size value with
              ms := .idle }) rfl rfl rfl
    exact ⟨rfl, .of_idle hcoh rfl, hview⟩

/-- A hit is served with the bytes the data side sees, or replaces them; a write-through store may wait. -/
theorem serveHit_serves (h : Coherent s (exemptFor op pa)) (hop : s.asks op) (hacc : s.accessAt pa = true)
    (hl : s.holds pa way (s.dLine pa way)) (spent : Bool) : (serveHit s op pa way spent).Serves s op pa := by
  have hfit := State.fits_of_accessAt hacc hop
  cases op with
  | load size =>
    have hcoh : Coherent s fun _ => False := h.mono fun a ha => by obtain ⟨⟨_, hv⟩, _⟩ := ha; cases hv
    exact ⟨rfl, .of_idle (hcoh.congr rfl rfl rfl) rfl, .of_eq rfl rfl rfl, h.slice_eq_viewBytes hl hfit⟩
  | store size value =>
    cases hwb : s.writeBack with
    | true =>
      rw [serveHit_writeBack hwb]
      obtain ⟨hcoh, hview⟩ := h.store_writeBack hl hfit hwb
        (t := { mutateLine s pa way size value with ms := .idle }) rfl rfl rfl
      exact ⟨rfl, .of_idle hcoh rfl, hview⟩
    | false =>
      unfold serveHit
      rw [hwb]
      exact writeThroughStep_serves h hop hacc hl hwb _ _

/-- A write-through store that is not served waits for its write, in `DWriteThrough` (R104). -/
theorem writeThroughStep_stall {size : AccessSize} {value : Word} {issued spent : Bool}
    (h : writeThroughStep s pa way size value issued spent = .stall t) : ∃ issued', t.ms = .dWriteThrough pa issued' := by
  unfold writeThroughStep at h
  cases spent
  case true => cases h; exact ⟨_, rfl⟩
  rw [if_neg Bool.false_ne_true] at h
  obtain ⟨_, hw⟩ | ⟨_, latency, hw | hw⟩ := physWrite_cases s issued pa.toNat (knownBytes size value)
  all_goals
    rw [hw] at h
    cases h
  exact ⟨_, rfl⟩

theorem serveHit_stall {spent : Bool} (h : serveHit s op pa way spent = .stall t) :
    ∃ issued, t.ms = .dWriteThrough pa issued := by
  cases op with
  | load size => cases h
  | store size value =>
    cases hwb : s.writeBack with
    | true => rw [serveHit_writeBack hwb] at h; cases h
    | false =>
      unfold serveHit at h
      rw [hwb] at h
      exact writeThroughStep_stall h

/-! ### Filling a way -/

/-- A line put into a way of a set in which its address misses. -/
theorem Coherent.puts_fresh (h : Coherent s exempt) (hmiss : s.dMisses pa) (hw : way < s.params.dcacheWays)
    (hv : ((s.dLine pa way).valid && (s.dLine pa way).dirty) = false) {data : List (Option Byte)} (hlen : data.length = 8)
    (hp : t.params = s.params)
    (hc : t.dcache = s.dcache.setLine (s.dIndex pa) way { valid := true, tag := s.dTag pa, data := data, dirty := false })
    (hm : t.pmem = s.pmem) :
    PutsLine s t pa way { valid := true, tag := s.dTag pa, data := data, dirty := false } where
  params := hp
  dcache := hc
  pmem_wf := hm ▸ h.pmem_wf
  pmem := fun a _ => by rw [hm]
  way_lt := hw
  valid := rfl
  tag := rfl
  lineSize := hlen
  undirtied := fun _ => rfl
  only := fun w k hk => (State.dMisses_iff.1 hmiss w k hk).elim
  victim := fun k hk hkv _ => by
    obtain rfl := Option.some.inj (hk.symm.trans (h.row_dLine pa hw))
    simpa [hkv] using hv

/-- The fill puts the backing store's line into the cache, where the data side already saw it (R101). -/
theorem Coherent.fill (h : Coherent s fun _ => False) (hmiss : s.dMisses pa) {exempt' : Nat → Prop}
    (hputs : PutsLine s t pa way
      { valid := true, tag := s.dTag pa, data := s.pmem.readBytes (lineBase Config.dline pa) 8, dirty := false })
    (hm : t.pmem = s.pmem) : Coherent t exempt' ∧ s.sameView t := by
  have hdata := (eq_readBytes_iff (Memory.length_readBytes _ _ _)).1
    (rfl : s.pmem.readBytes (lineBase Config.dline pa) 8 = s.pmem.readBytes (lineBase Config.dline pa) 8)
  have hcoh : Coherent t exempt' := h.puts (fun _ hf => hf.elim) hputs fun _ => .inr fun k hk => by rw [hm, hdata k hk]
  refine ⟨hcoh, fun a => ?_⟩
  by_cases hline : a.toNat / 8 = pa.toNat / 8
  · obtain ⟨hi, ht⟩ := (sameLine_iff s a pa).2 hline
    have hmiss' : s.dMisses a := by unfold State.dMisses at hmiss ⊢; rwa [hi, ht]
    rw [h.viewByte_of_puts hcoh hputs hline, State.viewByte_of_dMisses hmiss', hdata _ (Nat.mod_lt _ (by omega))]
    congr 1
    simp only [lineBase, Config.dline]
    omega
  · exact h.viewByte_of_puts_ne hcoh (fun _ hf => hf.elim) hputs hline

/-- The line an 8-byte store makes of its value shows the store's bytes (R105). -/
theorem Coherent.install {value : Word} (h : Coherent s fun _ => False) (hfit : pa.toNat % 8 + 8 ≤ 8)
    (hputs : PutsLine s t pa way { valid := true, tag := s.dTag pa, data := knownBytes .b8 value, dirty := false }) :
    Coherent t (exemptFor (.store .b8 value) pa) ∧ s.viewStored t pa .b8 value := by
  have hcoh : Coherent t (exemptFor (.store .b8 value) pa) :=
    h.puts (fun _ hf => hf.elim) hputs fun _ => .inl ⟨⟨value, rfl⟩, rfl⟩
  refine ⟨hcoh, fun a => ?_⟩
  have hin := inAccess_iff (n := AccessSize.b8.bytes) hfit a
  by_cases hline : a.toNat / 8 = pa.toNat / 8
  · have hacc : inAccess pa AccessSize.b8.bytes a = true := hin.2 ⟨hline, by simp only [AccessSize.bytes]; omega⟩
    rw [h.viewByte_of_puts hcoh hputs hline, if_pos hacc, ← getD_knownBytes hacc]
    congr 1
    omega
  · rw [h.viewByte_of_puts_ne hcoh (fun _ hf => hf.elim) hputs hline, if_neg fun hacc => hline (hin.1 hacc).1]

theorem installStore_serves {value : Word} (h : Coherent s fun _ => False) (hop : s.asks (.store .b8 value))
    (hacc : s.accessAt pa = true) (hmiss : s.dMisses pa) (hw : way < s.params.dcacheWays)
    (hv : ((s.dLine pa way).valid && (s.dLine pa way).dirty) = false) (spent : Bool) :
    (installStore s pa way value spent).Serves s (.store .b8 value) pa := by
  unfold installStore
  set t := (s.setDLine pa way { valid := true, tag := s.dTag pa, data := knownBytes .b8 value, dirty := false }).markStored
    pa.toNat 8
  have hputs : PutsLine s t pa way _ := h.puts_fresh hmiss hw hv (length_knownBytes .b8 value) rfl rfl rfl
  obtain ⟨hcoh, hview⟩ := h.install (State.fits_of_accessAt hacc hop) hputs
  have hserve := serveHit_serves hcoh hop hacc (h.holds_of_puts hputs) spent
  cases hr : serveHit t (.store .b8 value) pa way spent with
  | stop x => trivial
  | served u bytes sp =>
    rw [hr] at hserve
    obtain ⟨hms, hinv, hperf⟩ := hserve
    exact ⟨hms, hinv, hview.trans_self hperf⟩
  | stall u =>
    rw [hr] at hserve
    obtain ⟨issued, hms⟩ := serveHit_stall hr
    obtain ⟨hinv, hsame | ⟨v, _, hv, _, hstored⟩⟩ := hserve
    · exact ⟨hinv, .inr ⟨value, issued, rfl, hms, hview.trans_sameView hsame⟩⟩
    · cases hv
      exact ⟨hinv, .inr ⟨value, issued, rfl, hms, hview.trans_self hstored⟩⟩

/-- A cycle of the fill, or the install of an 8-byte store in its place (R101, R105). -/
theorem fillStep_serves (h : Coherent s fun _ => False) (hop : s.asks op) (hacc : s.accessAt pa = true)
    (hmiss : s.dMisses pa) (hw : way < s.params.dcacheWays)
    (hv : ((s.dLine pa way).valid && (s.dLine pa way).dirty) = false) (issued : Bool) :
    (fillStep s op pa way issued).Serves s op pa := by
  obtain ⟨value, rfl, hf⟩ | ⟨_, hf⟩ := fillStep_cases s op pa way issued
  · rw [hf]; exact installStore_serves h hop hacc hmiss hw hv false
  rw [hf]
  obtain ⟨_, hr⟩ | ⟨_, latency, hr | hr⟩ := physRead_cases s s.pmem issued (lineBase Config.dline pa) Config.dline
  · rw [hr]; trivial
  · rw [hr]
    refine ⟨h.dataInv rfl rfl rfl ?_, .inl (.of_eq rfl rfl rfl)⟩
    show (s.accessAt pa && decide (way < s.params.dcacheWays)
      && !((s.dLine pa way).valid && (s.dLine pa way).dirty)) = true
    simp [hacc, hw, hv]
  · rw [hr]
    dsimp only
    set t := ({ s with latency := latency, calls := s.calls + 1 } : State).setDLine pa way
      { valid := true, tag := s.dTag pa, data := s.pmem.readBytes (lineBase Config.dline pa) Config.dline, dirty := false }
    have hputs : PutsLine s t pa way _ :=
      h.puts_fresh hmiss hw hv (Memory.length_readBytes s.pmem (lineBase Config.dline pa) 8) rfl rfl rfl
    obtain ⟨hcoh, hview⟩ := h.fill (exempt' := exemptFor op pa) hmiss hputs rfl
    exact .of_sameView hview (serveHit_serves hcoh (hop.congr rfl) hacc (h.holds_of_puts hputs) true)

/-! ### The victim -/

/-- A cycle of a dirty victim's write-back (R99, R108). -/
theorem evictStep_serves (h : Coherent s fun _ => False) (hop : s.asks op) (hacc : s.accessAt pa = true)
    (hmiss : s.dMisses pa) (hw : way < s.params.dcacheWays) (hwb : s.writeBack = true)
    (hv : (s.dLine pa way).valid = true) (hd : (s.dLine pa way).dirty = true) {victimPa : PAddr}
    (hva : victimPa.toNat = (s.dLine pa way).address Config.dline s.params.dcacheRows (s.dIndex pa)) (issued : Bool) :
    (evictStep s op pa way victimPa issued).Serves s op pa := by
  unfold evictStep
  obtain ⟨_, hr⟩ | ⟨_, latency, hr | hr⟩ := physWrite_cases s issued victimPa.toNat (s.dLine pa way).data
  · rw [hr]; trivial
  · rw [hr]
    refine ⟨h.dataInv rfl rfl rfl ?_, .inl (.of_eq rfl rfl rfl)⟩
    show (s.accessAt pa && decide (way < s.params.dcacheWays) && s.writeBack && (s.dLine pa way).valid
      && (s.dLine pa way).dirty
      && victimPa.toNat == (s.dLine pa way).address Config.dline s.params.dcacheRows (s.dIndex pa)) = true
    simp [hacc, hw, hwb, hv, hd, hva]
  · rw [hr]
    dsimp only
    set t := ({ s with latency := latency, calls := s.calls + 1,
                       pmem := s.pmem.writeBytes victimPa.toNat (s.dLine pa way).data } : State).setDLine pa way
      { s.dLine pa way with valid := false, dirty := false }
    have hevicts : EvictsLine s t (s.dIndex pa) way (s.dLine pa way) :=
      ⟨rfl, h.row_dLine pa hw, hv, rfl, by rw [← hva]; rfl⟩
    have hcoh := h.evicts hevicts
    have hview : s.sameView t := h.viewByte_of_evicts hevicts
    have hmiss' : t.dMisses pa := State.dMisses_iff.2 fun w k hk =>
      State.dMisses_iff.1 hmiss w k ((h.holds_of_evicts hevicts pa w k).1 hk).1
    have hline : t.dLine pa way = { s.dLine pa way with valid := false, dirty := false } :=
      Cache.line_setLine (hw.trans_eq (h.length_ways pa).symm) _ _
    have hv' : ((t.dLine pa way).valid && (t.dLine pa way).dirty) = false := by rw [hline]; rfl
    split
    · next value => exact .of_sameView hview (installStore_serves hcoh hop hacc hmiss' hw hv' true)
    · refine ⟨hcoh.dataInv rfl rfl rfl ?_, .inl hview⟩
      show (s.accessAt pa && decide (way < s.params.dcacheWays)
        && !((t.dLine pa way).valid && (t.dLine pa way).dirty)) = true
      simp [hacc, hw, hv']

/-- A set with ways has a candidate for the victim (R98). -/
theorem victimCandidates_ne_nil {writeBack : Bool} {ways : List Line} (h : 0 < ways.length) :
    victimCandidates writeBack ways ≠ [] := by
  unfold victimCandidates
  dsimp only
  split
  · assumption
  · split
    · next hc => simp only [Bool.and_eq_true, decide_eq_true_eq] at hc; exact hc.2
    · simpa using Nat.ne_of_gt h

/-- The first cycle of a miss: the victim is a way of the set, written back first if it is dirty (R97 to R99). -/
theorem startMiss_serves (h : Coherent s fun _ => False) (hop : s.asks op) (hacc : s.accessAt pa = true)
    (hmiss : s.dMisses pa) : (startMiss s op pa).Serves s op pa := by
  obtain ⟨way, s', hp, hcase⟩ := startMiss_cases s op pa
  have hlen := h.length_ways pa
  have hw : way < s.params.dcacheWays := by
    have hmem := (pickVictim_cases s _ (victimCandidates_ne_nil (writeBack := s.writeBack) (hlen ▸ h.ways_pos))).1
    rw [← hp] at hmem
    exact hlen ▸ mem_victimCandidates hmem
  obtain ⟨victims, draws, rfl⟩ := pickVictim_eq hp.symm
  refine .of_sameView (t := { s with victims := victims, draws := draws }) (.of_eq rfl rfl rfl) ?_
  have h' : Coherent { s with victims := victims, draws := draws } fun _ => False := h.congr rfl rfl rfl
  obtain ⟨hv, hm⟩ | ⟨hv, hm⟩ := hcase
  · rw [hm]
    simp only [Bool.and_eq_true] at hv
    refine evictStep_serves h' (hop.congr rfl) hacc hmiss hw hv.1.1 hv.1.2 hv.2 ?_ false
    have hlt := h'.addressed _ _ _ (h'.row_dLine pa hw) hv.1.2
    rw [rowAddress, BitVec.toNat_ofNat]
    exact Nat.mod_eq_of_lt hlt
  · rw [hm]
    refine fillStep_serves h' (hop.congr rfl) hacc hmiss hw ?_ false
    cases hwb : s.writeBack
    · rw [h'.undirtied hwb _ _ _ (h'.row_dLine pa hw), Bool.and_false]
    · rw [show State.writeBack { s with victims := victims, draws := draws } = true from hwb, Bool.true_and] at hv
      exact hv

/-! ### The access at its physical address -/

/-- The physical address a status of the memory stage holds (R37). -/
def MemStatus.address : MemStatus → Option PAddr
  | .idle => none
  | .dTlb _ _ => none
  | .dDeferred pa => some pa
  | .dEvict pa _ _ _ => some pa
  | .dFill pa _ _ => some pa
  | .dWriteThrough pa _ => some pa

/-- A status with a physical address is that of an access there (R108). -/
theorem State.accessAt_of_status (h : s.statusOfM = true) (hpa : s.ms.address = some pa) : s.accessAt pa = true := by
  unfold State.statusOfM at h
  cases hms : s.ms <;> rw [hms] at h hpa <;> cases hpa
  case dDeferred => exact h
  all_goals simp only [Bool.and_eq_true] at h
  case dEvict => exact h.1.1.1.1.1
  case dFill => exact h.1.1
  case dWriteThrough => exact h.1.1.1

/-- While an access goes on at its address, the only line that may run ahead of the backing store is its own. -/
theorem DataInv.coherent_at (h : DataInv s) (hop : s.asks op) (hpa : ∀ q, s.ms.address = some q → q = pa) :
    Coherent s (exemptFor op pa) := by
  refine h.coherent.mono fun a ha => ?_
  obtain ⟨pc, va, value, q, issued, hm, hms, rfl⟩ := State.writingThrough_iff.1 ha
  obtain rfl := hpa q (by rw [hms]; rfl)
  cases op with
  | load size => obtain ⟨_, _, _, _, hm'⟩ := hop; cases hm.symm.trans hm'
  | store size v => obtain ⟨_, _, hm'⟩ := hop; cases hm.symm.trans hm'; exact ⟨⟨value, rfl⟩, rfl⟩

/-- A cycle of the data cache at the access's physical address keeps the invariant and performs the access when it serves
it, whatever it finds there. -/
theorem dcacheAccess_serves (h : DataInv s) (hop : s.asks op) (hacc : s.accessAt pa = true)
    (hpa : ∀ q, s.ms.address = some q → q = pa) (spent : Bool) : (dcacheAccess s op pa spent).Serves s op pa := by
  have hcoh := h.coherent_at hop hpa
  have hstatus := h.status
  unfold dcacheAccess
  split
  · next way hw => exact serveHit_serves hcoh hop hacc (State.holds_of_hitWay hw) spent
  · next hmiss =>
    have hclean : Coherent s fun _ => False := hcoh.of_dMisses (fun _ ha => ha.2) hmiss _
    split
    · exact ⟨hclean.dataInv rfl rfl rfl hacc, .inl (.of_eq rfl rfl rfl)⟩
    · unfold State.statusOfM at hstatus
      cases hms : s.ms with
      | dEvict q way victimPa issued =>
        rw [hms] at hstatus hpa
        obtain rfl := hpa q rfl
        simp only [Bool.and_eq_true, decide_eq_true_eq, beq_iff_eq] at hstatus
        obtain ⟨⟨⟨⟨⟨-, hw⟩, hwb⟩, hv⟩, hd⟩, hva⟩ := hstatus
        exact evictStep_serves hclean hop hacc hmiss hw hwb hv hd hva issued
      | dFill q way issued =>
        rw [hms] at hstatus hpa
        obtain rfl := hpa q rfl
        simp only [Bool.and_eq_true, decide_eq_true_eq, Bool.not_eq_true'] at hstatus
        obtain ⟨⟨-, hw⟩, hv⟩ := hstatus
        exact fillStep_serves hclean hop hacc hmiss hw hv issued
      | idle => exact startMiss_serves hclean hop hacc hmiss
      | dTlb step issued => exact startMiss_serves hclean hop hacc hmiss
      | dDeferred q => exact startMiss_serves hclean hop hacc hmiss
      | dWriteThrough q issued => exact startMiss_serves hclean hop hacc hmiss

end

end Sys2Proof.Machine

namespace Sys2Proof.Machine

/-! ## A cycle of the memory stage (R100, R380) -/

/-- What a cycle of the memory stage does to what the data side sees when the descriptor in `M` asks for an access: it
performs the access at the address of the cycle when it completes it, and otherwise changes nothing, but for the early
install of assumption 10. -/
def MemResult.Follows (s : State) (op : DataOp) (mout : PAddr → List (Option Byte) → WLatch) : MemResult → Prop
  | .out t w _ => t.ms = .idle ∧ DataInv t ∧
      ∃ pa bytes, s.dataAddress = some pa ∧ s.accessAt pa = true ∧ s.performs t pa bytes op ∧ w = mout pa bytes
  | .stall t => DataInv t ∧
      (s.sameView t ∨
        ∃ value pa issued, op = .store .b8 value ∧ t.ms = .dWriteThrough pa issued ∧ s.viewStored t pa .b8 value)
  | .halt t _ _ _ => DataInv t ∧ s.sameView t
  | .stop _ => True

section
variable {s t : State} {op : DataOp} {pa : PAddr} {mout : PAddr → List (Option Byte) → WLatch}

/-- A cycle of the data cache at the access's address is such a cycle of the stage. -/
theorem DataResult.Serves.toMem {r : DataResult} (h : r.Serves s op pa) (hpa : s.dataAddress = some pa)
    (hacc : s.accessAt pa = true) : (r.toMem (mout pa)).Follows s op mout := by
  cases r with
  | served t bytes spent =>
    obtain ⟨hms, hinv, hperf⟩ := h
    exact ⟨hms, hinv, pa, bytes, hpa, hacc, hperf, rfl⟩
  | stall t => exact ⟨h.1, h.2.imp_right fun ⟨value, issued, hv⟩ => ⟨value, pa, issued, hv⟩⟩
  | stop x => trivial

/-- A superpage number before the superpage offset keeps the page offset (R87). -/
theorem samePageOffset_append (ppn : BitVec 18) (va : Word) : samePageOffset (ppn ++ superpageOffset va) va = true := by
  unfold samePageOffset superpageOffset
  rw [beq_iff_eq]
  refine BitVec.eq_of_getLsbD_eq fun i hi => ?_
  rw [BitVec.getLsbD_setWidth, BitVec.getLsbD_setWidth, BitVec.getLsbD_append, BitVec.getLsbD_extractLsb']
  simp [hi]

/-- Everything a data-side translation can do (R79, R82 to R91): an address it gives keeps the page offset, and a state it
carries is changed in the data TLB and the calls only. -/
theorem translate_data_cases (mem : Memory) (spent : Bool) (walk : Option (WalkStep × Bool)) (va : Word) (s : State) :
    (∃ pa, translate .data mem spent walk va s = .hit pa ∧ samePageOffset pa va = true) ∨
      (∃ x, translate .data mem spent walk va s = .stop x) ∨
      ∃ dtlb latency calls,
        let t : State := { s with dtlb := dtlb, latency := latency, calls := calls }
        (∃ pa, translate .data mem spent walk va s = .done t pa ∧ samePageOffset pa va = true) ∨
          (∃ step issued, translate .data mem spent walk va s = .retry t step issued) ∨
          translate .data mem spent walk va s = .pageFault t := by
  by_cases hit : s.tlbHits .data va
  · exact .inl ⟨_, translate_hit hit mem spent walk, samePageOffset_append _ va⟩
  obtain hm | hm | hm | ⟨_, _, latency, hm | ⟨_, hm⟩ | ⟨_, _, hm⟩ | ⟨_, _, hm⟩⟩ :=
    translate_miss .data mem spent walk va s hit
  · exact .inr (.inr ⟨s.dtlb, s.latency, s.calls, .inr (.inl ⟨_, _, hm⟩)⟩)
  · exact .inr (.inl ⟨_, hm⟩)
  · exact .inr (.inl ⟨_, hm⟩)
  · exact .inr (.inr ⟨s.dtlb, latency, s.calls + 1, .inr (.inl ⟨_, _, hm⟩)⟩)
  · exact .inr (.inr ⟨s.dtlb, latency, s.calls + 1, .inr (.inr hm)⟩)
  · exact .inr (.inr ⟨_, latency, s.calls + 1, .inr (.inl ⟨_, _, hm⟩)⟩)
  · exact .inr (.inr ⟨_, latency, s.calls + 1, .inl ⟨_, hm, samePageOffset_append _ va⟩⟩)

/-- While the status holds no physical address no line runs ahead of the backing store. -/
theorem DataInv.coherent_of_address_none (h : DataInv s) (hms : s.ms.address = none) : Coherent s fun _ => False := by
  refine h.coherent.mono fun a ha => ?_
  obtain ⟨_, _, _, q, issued, _, hms', _⟩ := State.writingThrough_iff.1 ha
  rw [hms'] at hms
  cases hms

/-- Translation, then the cache (R100 step 3). -/
theorem translateAndAccess_follows (h : DataInv s) (hop : s.asks op) {va : Word} (hva : s.m.access = some (va, op.size))
    (hal : misalignedData va op.size = false) (hms : s.ms.address = none) {walk : Option (WalkStep × Bool)}
    (haddr : s.dataAddress = (translate .data s.pmem false walk va s).address) (pc : Word) :
    (translateAndAccess s op pc va walk mout).Follows s op mout := by
  have hacc : ∀ pa, samePageOffset pa va = true → s.accessAt pa = true := by
    intro pa hpa
    simp [State.accessAt, hva, hpa, hal]
  unfold translateAndAccess
  obtain ⟨pa, ht, hpa⟩ | ⟨x, ht⟩ | ⟨dtlb, latency, calls, ⟨pa, ht, hpa⟩ | ⟨step, issued, ht⟩ | ht⟩ :=
    translate_data_cases s.pmem false walk va s
  all_goals rw [ht] at haddr ⊢
  · have hserve := dcacheAccess_serves h hop (hacc pa hpa) (fun q hq => by rw [hms] at hq; cases hq) false
    exact hserve.toMem haddr (hacc pa hpa)
  · trivial
  · have h' : DataInv { s with dtlb := dtlb, latency := latency, calls := calls } := h.congr rfl rfl rfl rfl (.inl rfl)
    have hview : s.sameView { s with dtlb := dtlb, latency := latency, calls := calls } := .of_eq rfl rfl rfl
    have hserve := dcacheAccess_serves h' (hop.congr rfl) (hacc pa hpa) (fun q hq => by rw [hms] at hq; cases hq) true
    exact (hserve.of_sameView hview).toMem haddr (hacc pa hpa)
  · refine ⟨(h.coherent_of_address_none hms).dataInv rfl rfl rfl ?_, .inl (.of_eq rfl rfl rfl)⟩
    show s.m.access.isSome = true
    rw [hva]; rfl
  · exact ⟨h.congr rfl rfl rfl rfl (.inl rfl), .of_eq rfl rfl rfl⟩

theorem dataAccess_follows (h : DataInv s) (hop : s.asks op) {va : Word} (hva : s.m.access = some (va, op.size))
    (pc : Word) : (dataAccess s op pc va mout).Follows s op mout := by
  have cached : ∀ q, s.ms.address = some q → s.dataAddress = some q →
      ((dcacheAccess s op q false).toMem (mout q)).Follows s op mout := by
    intro q hq haddr
    have hacc := State.accessAt_of_status h.status hq
    exact (dcacheAccess_serves h hop hacc (fun p hp => Option.some.inj (hp.symm.trans hq)) false).toMem haddr hacc
  unfold dataAccess
  split
  · exact ⟨h, .refl s⟩
  · next hmis =>
    have hal : misalignedData va op.size = false := by simpa using hmis
    cases hms : s.ms with
    | idle => exact translateAndAccess_follows h hop hva hal (by rw [hms]; rfl) (by simp [State.dataAddress, hva, hms]) pc
    | dTlb step issued =>
      exact translateAndAccess_follows h hop hva hal (by rw [hms]; rfl) (by simp [State.dataAddress, hva, hms]) pc
    | dDeferred q => exact cached q (by rw [hms]; rfl) (by simp [State.dataAddress, hva, hms])
    | dEvict q way victimPa issued => exact cached q (by rw [hms]; rfl) (by simp [State.dataAddress, hva, hms])
    | dFill q way issued => exact cached q (by rw [hms]; rfl) (by simp [State.dataAddress, hva, hms])
    | dWriteThrough q issued => exact cached q (by rw [hms]; rfl) (by simp [State.dataAddress, hva, hms])

/-- A load in `M`: the slice the data side sees goes to `W`, extended (R262). -/
theorem memoryStage_load (h : DataInv s) {pc va : Word} {rd : Option Reg} {size : AccessSize} {signed : Bool}
    (hm : s.m = .load pc rd va size signed) :
    (memoryStage s).Follows s (.load size) fun pa bytes => .retire pc rd (loadValue size signed pa bytes) := by
  unfold memoryStage
  rw [hm]
  exact dataAccess_follows (op := .load size) h ⟨pc, rd, va, signed, hm⟩ (by rw [hm]; rfl) pc

/-- A store in `M`. -/
theorem memoryStage_store (h : DataInv s) {pc va value : Word} {size : AccessSize} (hm : s.m = .store pc va size value) :
    (memoryStage s).Follows s (.store size value) fun _ _ => .retire pc none 0#64 := by
  unfold memoryStage
  rw [hm]
  exact dataAccess_follows (op := .store size value) h ⟨pc, va, hm⟩ (by rw [hm]; rfl) pc

/-- A latch `M` without an access leaves the data side as it is (R381). -/
theorem memoryStage_noAccess (hm : s.m.access = none) :
    (∃ w, memoryStage s = .out { s with ms := .idle } w false) ∨ ∃ reason pc va, memoryStage s = .halt s reason pc va := by
  unfold memoryStage
  cases hM : s.m with
  | bubble => exact .inl ⟨_, rfl⟩
  | reg pc rd value => exact .inl ⟨_, rfl⟩
  | noEffect pc => exact .inl ⟨_, rfl⟩
  | token pc fault => exact .inr ⟨_, _, _, rfl⟩
  | load pc rd va size signed => rw [hM] at hm; cases hm
  | store pc va size value => rw [hM] at hm; cases hm

/-- A status other than `Idle` belongs to an access in `M`. -/
theorem DataInv.idle_of_noAccess (h : DataInv s) (hm : s.m.access = none) : s.ms = .idle := by
  have hst := h.status
  unfold State.statusOfM State.accessAt at hst
  cases hms : s.ms <;> simp [hms, hm] at hst
  rfl

end

end Sys2Proof.Machine

namespace Sys2Proof.Machine

/-! ## A cycle of the machine -/

/-- `t` has the data side of `s`: its cache, its status, the backing store and the parameters. -/
structure SameDataSide (s t : State) : Prop where
  dcache : t.dcache = s.dcache
  pmem : t.pmem = s.pmem
  params : t.params = s.params
  ms : t.ms = s.ms

section
variable {s t : State}

theorem SameDataSide.sameView (h : SameDataSide s t) : s.sameView t := .of_eq h.dcache h.pmem h.params

theorem DataInv.of_sameDataSide (h : DataInv s) (hst : SameDataSide s t) (hm : t.m = s.m ∨ s.ms = .idle) : DataInv t :=
  h.congr hst.dcache hst.pmem hst.params hst.ms hm

theorem State.writeback_sameDataSide (s : State) : SameDataSide s s.writeback := by
  constructor <;> simp

/-- Execute, decode and fetch leave the data side alone, and `W` gets the memory stage's output (R79, R332, R349). -/
theorem advance_sameDataSide {start : State} {mout : WLatch} {spent : Bool} (h : advance start mout spent s = .next t) :
    SameDataSide s t ∧ t.w = mout := by
  obtain ⟨s1, s2, hexec, hfetch, rfl⟩ := advance_next h
  obtain ⟨_, _, _, _, _, _, rfl⟩ := executeStage_changes hexec
  obtain ⟨_, _, _, _, _, _, _, _, _, rfl⟩ := fetchStage_changes hfetch
  obtain ⟨_, hd⟩ | ⟨_, _, _, hd⟩ | ⟨_, _, _, _, ⟨_, _, _, _, hd⟩ | ⟨_, hd⟩⟩ := decodeStage_cases start.x mout
    { s with m := _, pc := _, fs := _, d := _, bp := _, log := _ }
  all_goals
    rw [hd]
    exact ⟨⟨rfl, rfl, rfl, rfl⟩, rfl⟩

/-- The data side starts a cycle as the last one left it: writeback touches only the registers. -/
theorem DataInv.writeback (h : DataInv s) : DataInv s.writeback :=
  h.of_sameDataSide s.writeback_sameDataSide (.inl s.writeback_m)

theorem State.storesAt_iff {pa : PAddr} {size : AccessSize} {value : Word} :
    s.storesAt pa size value ↔ s.running = true ∧ s.writeback.dataAddress = some pa ∧ s.writeback.asks (.store size value) ∧
      ∃ t mout spent, memoryStage s.writeback = .out t mout spent := by
  unfold State.storesAt State.completesM State.asks
  rw [State.writeback_m]
  tauto

/-- What a step does to what the data side sees (R73, R109, R110): a completed store replaces its bytes; any other cycle
changes nothing, but for the early install of assumption 10. -/
def State.Follows (s t : State) : Prop :=
  (∃ pa size value, s.storesAt pa size value ∧ s.viewStored t pa size value) ∨
    (∀ pa size value, ¬s.storesAt pa size value) ∧
      (s.sameView t ∨
        ∃ pc va value pa issued, s.m = .store pc va .b8 value ∧ t.m = s.m ∧ t.ms = .dWriteThrough pa issued ∧
          s.viewStored t pa .b8 value)

/-- A cycle in which the memory stage completes nothing stores nothing. -/
theorem State.not_storesAt_of_not_out (h : ∀ t mout spent, memoryStage s.writeback ≠ .out t mout spent) (pa : PAddr)
    (size : AccessSize) (value : Word) : ¬s.storesAt pa size value := by
  rintro ⟨⟨-, t, mout, spent, hout⟩, -⟩
  exact h t mout spent hout

theorem State.not_storesAt_of_not_store (h : ∀ pc va size value, s.m ≠ .store pc va size value) (pa : PAddr)
    (size : AccessSize) (value : Word) : ¬s.storesAt pa size value := by
  rintro ⟨-, -, pc, va, hm⟩
  exact h pc va size value hm

end

end Sys2Proof.Machine

namespace Sys2Proof.Machine

/-- A cycle of the memory stage, whatever is in `M`: it keeps the data side's invariant, and changes what the data side sees
only by the store it completes or by the early install of assumption 10. -/
def MemResult.Keeps (s : State) : MemResult → Prop
  | .out t _ _ => t.ms = .idle ∧ DataInv t ∧
      ((∃ pa size value, s.asks (.store size value) ∧ s.dataAddress = some pa ∧ s.viewStored t pa size value) ∨
        (∀ pc va size value, s.m ≠ .store pc va size value) ∧ s.sameView t)
  | .stall t => DataInv t ∧
      (s.sameView t ∨
        ∃ pc va value pa issued, s.m = .store pc va .b8 value ∧ t.ms = .dWriteThrough pa issued ∧
          s.viewStored t pa .b8 value)
  | .halt t _ _ _ => DataInv t ∧ s.sameView t
  | .stop _ => True

section
variable {s t : State}

theorem MemResult.Follows.keeps_of_load {r : MemResult} {mout : PAddr → List (Option Byte) → WLatch} {pc va : Word}
    {rd : Option Reg} {size : AccessSize} {signed : Bool} (hm : s.m = .load pc rd va size signed)
    (h : r.Follows s (.load size) mout) : r.Keeps s := by
  cases r with
  | stop x => trivial
  | halt t reason pc va => exact h
  | stall t =>
    obtain ⟨hinv, hview | ⟨value, pa, issued, hop, -⟩⟩ := h
    · exact ⟨hinv, .inl hview⟩
    · cases hop
  | out t w spent =>
    obtain ⟨hms, hinv, pa, bytes, -, -, ⟨hview, -⟩, -⟩ := h
    exact ⟨hms, hinv, .inr ⟨by simp [hm], hview⟩⟩

theorem MemResult.Follows.keeps_of_store {r : MemResult} {mout : PAddr → List (Option Byte) → WLatch} {pc va value : Word}
    {size : AccessSize} (hm : s.m = .store pc va size value) (h : r.Follows s (.store size value) mout) : r.Keeps s := by
  cases r with
  | stop x => trivial
  | halt t reason pc va => exact h
  | stall t =>
    obtain ⟨hinv, hview | ⟨v, pa, issued, hop, hms, hview⟩⟩ := h
    · exact ⟨hinv, .inl hview⟩
    · cases hop
      exact ⟨hinv, .inr ⟨pc, va, value, pa, issued, hm, hms, hview⟩⟩
  | out t w spent =>
    obtain ⟨hms, hinv, pa, bytes, haddr, -, hview, -⟩ := h
    exact ⟨hms, hinv, .inl ⟨pa, size, value, ⟨pc, va, hm⟩, haddr, hview⟩⟩

/-- The memory stage keeps the data side's invariant, whatever is in `M` and whatever it hits, misses, fills or evicts. -/
theorem memoryStage_keeps (h : DataInv s) : (memoryStage s).Keeps s := by
  cases hacc : s.m.access with
  | none =>
    have hidle := h.idle_of_noAccess hacc
    obtain ⟨w, hr⟩ | ⟨reason, pc, va, hr⟩ := memoryStage_noAccess hacc
    · rw [hr]
      refine ⟨rfl, h.congr rfl rfl rfl hidle.symm (.inl rfl), .inr ⟨fun pc va size value hm => ?_, .of_eq rfl rfl rfl⟩⟩
      rw [hm] at hacc
      cases hacc
    · rw [hr]; exact ⟨h, .refl s⟩
  | some access =>
    cases hm : s.m with
    | load pc rd va size signed => exact (memoryStage_load h hm).keeps_of_load hm
    | store pc va size value => exact (memoryStage_store h hm).keeps_of_store hm
    | bubble => rw [hm] at hacc; cases hacc
    | reg pc rd value => rw [hm] at hacc; cases hacc
    | noEffect pc => rw [hm] at hacc; cases hacc
    | token pc fault => rw [hm] at hacc; cases hacc

theorem memoryStage_stall_m (h : memoryStage s = .stall t) : t.m = s.m := by
  have hc := memoryStage_changes s
  rw [h] at hc
  obtain ⟨_, _, _, _, _, _, _, _, _, rfl⟩ := hc
  rfl

/-- A step keeps the data side's invariant, and changes what the data side sees only as `State.Follows` says. -/
theorem step_keeps (h : DataInv s) (hstep : step s = .next t) : DataInv t ∧ s.Follows t := by
  have hkeeps := memoryStage_keeps h.writeback
  have hwb : s.sameView s.writeback := s.writeback_sameDataSide.sameView
  obtain ⟨hhalt, rfl⟩ | ⟨hrun, ⟨s1, reason, pc, va, hm, rfl⟩ | ⟨s1, hm, rfl⟩ | ⟨s1, mout, spent, hm, hadv⟩⟩ :=
    step_next hstep
  · refine ⟨h, .inr ⟨?_, .inl (.refl t)⟩⟩
    rintro pa size value ⟨⟨hrun, -⟩, -⟩
    rw [hhalt] at hrun
    cases hrun
  all_goals
    rw [hm] at hkeeps
  · obtain ⟨hinv, hview⟩ := hkeeps
    have hside : SameDataSide s1 (s1.raiseHalt reason pc va) := ⟨rfl, rfl, rfl, rfl⟩
    exact ⟨hinv.of_sameDataSide hside (.inl rfl), .inr ⟨State.not_storesAt_of_not_out (by simp [hm]),
      .inl ((hwb.trans hview).trans hside.sameView)⟩⟩
  · obtain ⟨hinv, hview⟩ := hkeeps
    have hside : SameDataSide s1 { s1 with w := .bubble } := ⟨rfl, rfl, rfl, rfl⟩
    have hM : s1.m = s.m := (memoryStage_stall_m hm).trans s.writeback_m
    refine ⟨hinv.of_sameDataSide hside (.inl rfl), .inr ⟨State.not_storesAt_of_not_out (by simp [hm]), ?_⟩⟩
    obtain hview | ⟨pc, va, value, pa, issued, hstore, hms, hview⟩ := hview
    · exact .inl ((hwb.trans hview).trans hside.sameView)
    · exact .inr ⟨pc, va, value, pa, issued, s.writeback_m ▸ hstore, hM, hms,
        hwb.trans_viewStored (hview.trans_sameView hside.sameView)⟩
  · obtain ⟨hidle, hinv, hview⟩ := hkeeps
    obtain ⟨hside, -⟩ := advance_sameDataSide hadv
    refine ⟨hinv.of_sameDataSide hside (.inr hidle), ?_⟩
    obtain ⟨pa, size, value, hasks, haddr, hview⟩ | ⟨hne, hview⟩ := hview
    · exact .inl ⟨pa, size, value, State.storesAt_iff.2 ⟨hrun, haddr, hasks, s1, mout, spent, hm⟩,
        hwb.trans_viewStored (hview.trans_sameView hside.sameView)⟩
    · exact .inr ⟨State.not_storesAt_of_not_store (by simpa using hne),
        .inl ((hwb.trans hview).trans hside.sameView)⟩

/-- A load that completes sends to `W` the bytes the data side sees at its physical address, and stays in one line there
(R262, R264 to R270). -/
theorem step_load (h : DataInv s) (hstep : step s = .next t) {pa : PAddr} {rd : Option Reg} {size : AccessSize}
    {signed : Bool} (hload : s.loadsAt pa rd size signed) :
    pa.toNat % 8 + size.bytes ≤ 8 ∧ ∃ pc, t.w = .retire pc rd (loadValue size signed pa (s.viewBytes pa size.bytes)) := by
  obtain ⟨⟨hrun, u, mout, spent, hout⟩, haddr, pc, va, hm⟩ := hload
  have hfollows := memoryStage_load h.writeback (s.writeback_m.trans hm)
  rw [hout] at hfollows
  obtain ⟨-, -, pa', bytes, haddr', hacc, ⟨-, hbytes⟩, rfl⟩ := hfollows
  obtain rfl : pa' = pa := Option.some.inj (haddr'.symm.trans haddr)
  refine ⟨State.fits_of_accessAt (op := .load size) hacc ⟨pc, rd, va, signed, s.writeback_m.trans hm⟩, pc, ?_⟩
  rw [← s.writeback_sameDataSide.sameView.viewBytes, ← hbytes]
  obtain ⟨hhalt, -⟩ | ⟨-, ⟨_, _, _, _, hr, -⟩ | ⟨_, hr, -⟩ | ⟨_, _, _, hr, hadv⟩⟩ := step_next hstep
  · rw [hrun] at hhalt; cases hhalt
  · cases hout.symm.trans hr
  · cases hout.symm.trans hr
  · cases hout.symm.trans hr
    exact (advance_sameDataSide hadv).2

/-! ## A store that is being written through -/

/-- An 8-byte store that is being written through already shows its bytes where the data side sees `x` (assumption 10). -/
def State.overwrites (s : State) (x : PAddr) : Prop :=
  ∃ pc va value q issued, s.m = .store pc va .b8 value ∧ s.ms = .dWriteThrough q issued ∧ inAccess q 8 x = true

theorem DataResult.toMem_ne_halt (r : DataResult) (mout : List (Option Byte) → WLatch) (t : State) (reason : HaltReason)
    (pc va : Word) : r.toMem mout ≠ .halt t reason pc va := by
  cases r <;> simp [DataResult.toMem]

theorem DataResult.toMem_eq_stall {r : DataResult} {mout : List (Option Byte) → WLatch} :
    r.toMem mout = .stall t ↔ r = .stall t := by
  cases r <;> simp [DataResult.toMem]

/-- Such a store never halts, and a cycle that does not complete it leaves it under way. -/
theorem memoryStage_overwriting (h : DataInv s) {pc va value : Word} {q : PAddr} {issued : Bool}
    (hm : s.m = .store pc va .b8 value) (hms : s.ms = .dWriteThrough q issued) :
    (∀ t reason pc va, memoryStage s ≠ .halt t reason pc va) ∧
      ∀ t, memoryStage s = .stall t → ∃ issued', t.ms = .dWriteThrough q issued' := by
  have hst := h.status
  simp only [State.statusOfM, hms, hm, State.accessAt, MLatch.access, Bool.and_eq_true, Bool.not_eq_true',
    Option.isSome_iff_exists] at hst
  obtain ⟨⟨⟨⟨-, hal⟩, -⟩, way, hway⟩, -⟩ := hst
  have hstage : memoryStage s =
      (serveHit s (.store .b8 value) q way false).toMem fun _ => .retire pc none 0#64 := by
    simp [memoryStage, hm, dataAccess, DataOp.size, hal, hms, dcacheAccess, hway]
  rw [hstage]
  exact ⟨DataResult.toMem_ne_halt _ _, fun t ht => serveHit_stall (DataResult.toMem_eq_stall.1 ht)⟩

/-- Until it completes it goes on showing its bytes. -/
theorem step_overwrites (h : DataInv s) (hstep : step s = .next t) {x : PAddr} (hx : s.overwrites x) :
    (∃ q value, s.storesAt q .b8 value ∧ inAccess q 8 x = true) ∨ t.overwrites x := by
  have hx' := hx
  obtain ⟨pc, va, value, q, issued, hm, hms, hin⟩ := hx
  obtain ⟨hhalt, hstall⟩ := memoryStage_overwriting h.writeback (s.writeback_m.trans hm) (s.writeback_ms.trans hms)
  obtain ⟨-, rfl⟩ | ⟨hrun, ⟨s1, reason, pc', va', hr, -⟩ | ⟨s1, hr, rfl⟩ | ⟨s1, mout, spent, hr, -⟩⟩ := step_next hstep
  · exact .inr hx'
  · exact absurd hr (hhalt _ _ _ _)
  · obtain ⟨issued', hms'⟩ := hstall s1 hr
    exact .inr ⟨pc, va, value, q, issued', ((memoryStage_stall_m hr).trans s.writeback_m).trans hm, hms', hin⟩
  · refine .inl ⟨q, value, State.storesAt_iff.2 ⟨hrun, ?_, ⟨pc, va, s.writeback_m.trans hm⟩, s1, mout, spent, hr⟩, hin⟩
    simp [State.dataAddress, hm, hms, MLatch.access]

/-! ## Runs -/

theorem State.after_succ {n : Nat} : s.after (n + 1) = some t ↔ ∃ u, s.after n = some u ∧ step u = .next t := by
  simp only [State.after]
  cases s.after n with
  | none => simp
  | some u => cases hs : step u <;> simp [hs]

/-- The data side's invariant holds along a run. -/
theorem DataInv.after (h : DataInv s) {n : Nat} (hn : s.after n = some t) : DataInv t := by
  induction n generalizing t with
  | zero => cases hn; exact h
  | succ n ih =>
    obtain ⟨u, hu, hstep⟩ := State.after_succ.1 hn
    exact (step_keeps (ih hu) hstep).1

/-- The data side sees the bytes of a store at its address, or those of a later 8-byte store that is being written through
over them. -/
def State.shows (s : State) (pa : PAddr) (size : AccessSize) (value : Word) : Prop :=
  ∀ x, inAccess pa size.bytes x = true → s.viewByte x = some (storedByteAt pa value x) ∨ s.overwrites x

variable {pa : PAddr} {size : AccessSize} {value : Word}

/-- A store that completes shows its bytes from then on. -/
theorem step_store_shows (h : DataInv s) (hstep : step s = .next t) (hstore : s.storesAt pa size value) :
    t.shows pa size value := by
  obtain ⟨-, ⟨q, n, v, hstore', hview⟩ | ⟨hnone, -⟩⟩ := step_keeps h hstep
  · obtain ⟨-, haddr, pc, va, hm⟩ := hstore
    obtain ⟨-, haddr', pc', va', hm'⟩ := hstore'
    cases haddr.symm.trans haddr'
    cases hm.symm.trans hm'
    exact fun x hx => .inl (by rw [hview x, if_pos hx])
  · exact absurd hstore (hnone pa size value)

/-- A cycle that completes no store to an overlapping byte keeps the bytes shown. -/
theorem step_shows (h : DataInv s) (hstep : step s = .next t) (hshows : s.shows pa size value)
    (hfree : ∀ q n v, s.storesAt q n v → ∀ x, inAccess pa size.bytes x = true → inAccess q n.bytes x = false) :
    t.shows pa size value := by
  intro x hx
  obtain hbyte | hover := hshows x hx
  · obtain ⟨-, ⟨q, n, v, hstore, hview⟩ | ⟨-, hview | ⟨pc, va, v, q, issued, hm, hM, hms, hview⟩⟩⟩ := step_keeps h hstep
    · rw [hview x, hfree q n v hstore x hx]
      exact .inl hbyte
    · rw [hview x]
      exact .inl hbyte
    · cases hin : inAccess q 8 x
      · rw [hview x, if_neg (by simpa [AccessSize.bytes] using hin)]
        exact .inl hbyte
      · exact .inr ⟨pc, va, v, q, issued, hM.trans hm, hms, hin⟩
  · obtain ⟨q, v, hstore, hin⟩ | hover := step_overwrites h hstep hover
    · have hno := hfree q .b8 v hstore x hx
      rw [show inAccess q AccessSize.b8.bytes x = true from hin] at hno
      cases hno
    · exact .inr hover

/-- From the cycle after a store to one in which no store to an overlapping byte has completed, its bytes are shown. -/
theorem after_shows (h : DataInv s) {a b : State} {i j : Nat} (hi : s.after i = some a) (hstore : a.storesAt pa size value)
    (hij : i < j) (hj : s.after j = some b)
    (hfree : ∀ k u q n v, i < k → k < j → s.after k = some u → u.storesAt q n v →
      ∀ x, inAccess pa size.bytes x = true → inAccess q n.bytes x = false) : b.shows pa size value := by
  induction j, hij using Nat.le_induction generalizing b with
  | base =>
    obtain ⟨u, hu, hstep⟩ := State.after_succ.1 hj
    cases hi.symm.trans hu
    exact step_store_shows (h.after hi) hstep hstore
  | succ j hij ih =>
    obtain ⟨u, hu, hstep⟩ := State.after_succ.1 hj
    have hshows := ih hu fun k w q n v hik hkj => hfree k w q n v hik (by omega)
    exact step_shows (h.after hu) hstep hshows fun q n v => hfree j u q n v hij (by omega) hu

/-- The bytes shown at a store's address are the store's, where no store is in progress. -/
theorem State.shows.viewBytes (h : s.shows pa size value) (hm : ∀ pc va v, s.m ≠ .store pc va .b8 v)
    (hfit : pa.toNat % 8 + size.bytes ≤ 8) : s.viewBytes pa size.bytes = knownBytes size value := by
  refine List.ext_getElem? fun k => ?_
  rw [State.getElem?_viewBytes]
  split
  · next hk =>
    have hto := toNat_add_of_fits hfit hk
    have hin : inAccess pa size.bytes (pa + BitVec.ofNat 32 k) = true := by
      simp only [inAccess, hto, Bool.and_eq_true, decide_eq_true_eq]
      omega
    have hbyte := (h _ hin).resolve_right fun ⟨pc, va, v, _, _, hstore, _⟩ => hm pc va v hstore
    rw [hbyte, ← getD_knownBytes hin, hto, Nat.add_sub_cancel_left]
    have hlen : k < (knownBytes size value).length := by simpa using hk
    rw [List.getD_eq_getElem _ _ hlen, List.getElem?_eq_getElem hlen]
  · next hk => exact (List.getElem?_eq_none (by simpa using hk)).symm

/-- A load of the bytes a store wrote delivers the low bytes of the stored value (R66, R262, R263). -/
theorem loadValue_knownBytes (size : AccessSize) (signed : Bool) (pa : PAddr) (value : Word) :
    loadValue size signed pa (knownBytes size value) =
      extendSlice size signed (value.toNat % 2 ^ (8 * size.bytes)) := by
  rw [loadValue, knownBytes, resolveBytes_map_some, storeBytes, leValue_leBytes, Nat.pow_mul]

end

/-- Settles O44: a completed store's bytes stay in view, through hits, misses, fills and evictions, until a store to one of
them completes; the load delivers what is in view. -/
theorem storeThenLoad : Obligations.StoreThenLoad := by
  intro s a b c i j pa rd size signed value hinv hi hstore hij hj hload hstep hfree
  have h := hinv.dataInv
  have hshows := after_shows h hi hstore hij hj hfree
  obtain ⟨hfit, pc, hw⟩ := step_load (h.after hj) hstep hload
  obtain ⟨-, -, pc', va, hm⟩ := hload
  rw [hshows.viewBytes (by simp [hm]) hfit, loadValue_knownBytes] at hw
  exact ⟨pc, hw⟩

end Sys2Proof.Machine

namespace Sys2Proof.Machine

/-! ## Translation, call by call (R82 to R91) -/

theorem State.tlbHits_iff {s : State} {side : Side} {va : Word} :
    s.tlbHits side va ↔ (s.tlb side).slots[(va.extractLsb' 14 3).toNat].valid = true ∧
      (s.tlb side).slots[(va.extractLsb' 14 3).toNat].tag = va.extractLsb' 14 18 := by
  unfold State.tlbHits
  rw [Tlb.slotFor_eq]
  rfl

/-- The slot an address selects, by its bits (R80, R81). -/
theorem vpnSlot_eq_extractLsb' (va : Word) : vpnSlot va = va.extractLsb' 14 3 := by
  rw [vpnSlot_eq_spSlot]
  refine BitVec.eq_of_getLsbD_eq fun i hi => ?_
  simp [spSlot, superpage, hi, show i < 18 by omega]

/-- Two addresses of one superpage select one slot. -/
theorem slotBits_congr {va va' : Word} (h : superpage va' = superpage va) :
    va'.extractLsb' 14 3 = va.extractLsb' 14 3 := by
  rw [← vpnSlot_eq_extractLsb', ← vpnSlot_eq_extractLsb', vpnSlot_eq_spSlot, vpnSlot_eq_spSlot, h]

/-- The walk that finishes installs the superpage with the page it gives (R87). -/
theorem translate_done {side : Side} {mem : Memory} {spent : Bool} {walk : Option (WalkStep × Bool)} {va : Word}
    {s t : State} {pa : PAddr} (h : translate side mem spent walk va s = .done t pa) :
    ∃ ppn, pa = ppn ++ superpageOffset va ∧
      (t.tlb side).slots[(va.extractLsb' 14 3).toNat] = { valid := true, tag := superpage va, ppn := ppn } := by
  by_cases hit : s.tlbHits side va
  · simp [translate_hit hit] at h
  obtain hm | hm | hm | ⟨_, _, latency, hm | ⟨_, hm⟩ | ⟨_, _, hm⟩ | ⟨_, _, hm⟩⟩ :=
    translate_miss side mem spent walk va s hit
  all_goals
    rw [hm] at h
    simp only [reduceCtorEq, TransResult.done.injEq] at h
  obtain ⟨rfl, rfl⟩ := h
  refine ⟨_, rfl, ?_⟩
  rw [State.tlb_setTlb, ← Tlb.slotFor_eq]
  simp [Tlb.slotFor, Tlb.install]

/-- Settles O36: the installed slot holds the superpage, so it is hit, with the page the walk gave. -/
theorem tlbIdempotent : Obligations.TlbIdempotent := by
  intro side mem mem' spent spent' walk walk' va va' s t u pa hdone hpage hslot
  obtain ⟨ppn, rfl, hinstalled⟩ := translate_done hdone
  have hppn : (ppn ++ superpageOffset va).extractLsb' 14 18 = ppn := by
    refine BitVec.eq_of_getLsbD_eq fun i hi => ?_
    rw [BitVec.getLsbD_extractLsb', BitVec.getLsbD_append]
    simp [hi]
  have hgives : u.tlbGives side va' (ppn ++ va'.extractLsb' 0 14) := by
    unfold State.tlbGives
    simp only [slotBits_congr hpage, hslot, hinstalled, hpage]
    exact ⟨trivial, rfl, trivial⟩
  rw [hppn]
  exact translate_of_tlbGives hgives mem' spent' walk'

/-- A miss whose call is free and whose answer the harness has fixed: the entry is read, or the walk waits for it (R83, R85,
R91). -/
theorem translate_answered {side : Side} {va : Word} {s : State} {b : Bool} {rest : List Bool} (hmiss : ¬s.tlbHits side va)
    (walk : Option (WalkStep × Bool)) {step : WalkStep} (hstep : (walk.getD (.first, false)).1 = step) (mem : Memory)
    (hclean : storedTouches s.stored (walkAddress s side step va).toNat 4 = false)
    (hin : (walkAddress s side step va).toNat + 4 ≤ s.params.pmemSize) (hl : s.latency = b :: rest) :
    translate side mem false walk va s =
      if b then
        walkEntry side step va
          (pteOf (walkAddress s side step va).toNat (mem.readBytes (walkAddress s side step va).toNat 4)) (s.answered rest)
      else .retry (s.answered rest) step true := by
  subst hstep
  unfold State.tlbHits at hmiss
  unfold translate
  rw [if_neg (by simpa using hmiss)]
  dsimp only
  rw [if_neg Bool.false_ne_true, hclean, if_neg Bool.false_ne_true, physRead_answered hl hin]
  cases b <;> rfl

/-- The first-level entry's address by the bits of the virtual address (R83). -/
theorem level1Address_superpage (ptbr : PAddr) (va : Word) :
    level1Address ptbr (superpage va) = ptbr + (va.extractLsb' 22 10).setWidth 32 * 4#32 := by
  have hbits : (superpage va).setWidth 32 >>> 8 = (va.extractLsb' 22 10).setWidth 32 := by
    refine BitVec.eq_of_getLsbD_eq fun i hi => ?_
    simp only [superpage, BitVec.getLsbD_ushiftRight, BitVec.getLsbD_setWidth, BitVec.getLsbD_extractLsb']
    by_cases h : i < 10
    · simp [h, hi, show 8 + i < 32 by omega, show 8 + i < 18 by omega, ← Nat.add_assoc]
    · simp [h, show ¬8 + i < 18 by omega]
  rw [level1Address, hbits]

/-- The second-level entry's address by the bits of the virtual address (R85). -/
theorem level2Address_superpage (e : Word32) (va : Word) :
    level2Address e (superpage va) =
      ((e.extractLsb' 0 18).setWidth 32 <<< 14) + (va.extractLsb' 14 8).setWidth 32 * 4#32 := by
  have hbits : (superpage va).extractLsb' 0 8 = va.extractLsb' 14 8 := by
    refine BitVec.eq_of_getLsbD_eq fun i hi => ?_
    simp [superpage, hi, show i < 18 by omega]
  rw [level2Address, hbits]
  rfl

/-- Step 1's entry: a fault, or the address of step 2 (R84, R85). -/
theorem walkEntry_first (side : Side) (va : Word) (e : Word32) (s : State) :
    walkEntry side .first va e s =
      if e.getLsbD 31 = false then .pageFault s
      else
        .retry
          (s.setTlb side
            { s.tlb side with
              l2a := ((e.extractLsb' 0 18).setWidth 32 <<< 14) + (va.extractLsb' 14 8).setWidth 32 * 4#32 })
          .second false := by
  rw [← level2Address_superpage]
  unfold walkEntry pteValid
  cases e.getLsbD 31 <;> rfl

/-- Step 2's entry: a fault, or the slot's install (R86, R87). -/
theorem walkEntry_second (side : Side) (va : Word) (e : Word32) (s : State) :
    walkEntry side .second va e s =
      if e.getLsbD 31 = false then .pageFault s
      else
        .done
          (s.setTlb side
            { s.tlb side with
              slots :=
                (s.tlb side).slots.set (va.extractLsb' 14 3).toNat
                  { valid := true, tag := va.extractLsb' 14 18, ppn := e.extractLsb' 0 18 } })
          (e.extractLsb' 0 18 ++ va.extractLsb' 0 14) := by
  unfold walkEntry pteValid
  cases e.getLsbD 31
  · rfl
  · simp only [← vpnSlot_eq_extractLsb', vpnSlot_eq_spSlot, ne_eq, not_true_eq_false, if_false]
    rfl

/-- Settles O35: the two steps by their fixed answers; a hit by the slot alone. -/
theorem translationSteps : Obligations.TranslationSteps := by
  intro side mem spent va s
  refine ⟨fun walk hv ht => translate_of_tlbGives ⟨hv, ht, rfl⟩ mem spent walk, ?_, ?_⟩
  · rintro walk latency hmiss hwalk ⟨rfl, hclean, hin⟩
    rw [← State.tlbHits_iff] at hmiss
    have hstep : (walk.getD (.first, false)).1 = .first := by
      obtain rfl | ⟨issued, rfl⟩ := hwalk <;> rfl
    rw [← level1Address_superpage] at hclean hin ⊢
    refine ⟨fun hl => ?_, fun hl => ?_⟩
    · rw [translate_answered hmiss walk hstep mem hclean hin hl, if_pos rfl, walkEntry_first]
      rfl
    · rw [translate_answered hmiss walk hstep mem hclean hin hl]
      rfl
  · rintro issued latency hmiss ⟨rfl, hclean, hin⟩
    rw [← State.tlbHits_iff] at hmiss
    refine ⟨fun hl => ?_, fun hl => ?_⟩
    · rw [translate_answered hmiss (some (.second, issued)) rfl mem hclean hin hl, if_pos rfl]
      exact walkEntry_second _ _ _ _
    · rw [translate_answered hmiss (some (.second, issued)) rfl mem hclean hin hl]
      rfl

end Sys2Proof.Machine

namespace Sys2Proof.Machine

/-! ## The halts of a load or store (R68, R304, R309) -/

/-- The stage performs the access a load or store in `M` asks for. -/
theorem memoryStage_eq_dataAccess {s : State} {op : DataOp} {pc va : Word} {rd : Option Reg} {size : AccessSize}
    {signed : Bool} {value : Word}
    (h : s.m = .load pc rd va size signed ∧ op = .load size ∨ s.m = .store pc va size value ∧ op = .store size value) :
    ∃ mout, memoryStage s = dataAccess s op pc va mout := by
  unfold memoryStage
  obtain ⟨hm, rfl⟩ | ⟨hm, rfl⟩ := h
  · rw [hm]; exact ⟨_, rfl⟩
  · rw [hm]; exact ⟨_, rfl⟩

/-- An aligned access halts, if at all, for its translation (R304, R307). -/
theorem dataAccess_ne_misaligned {s : State} {op : DataOp} {va : Word} (hal : misalignedData va op.size = false) (pc : Word)
    (mout : PAddr → List (Option Byte) → WLatch) (t : State) (pc' va' : Word) :
    dataAccess s op pc va mout ≠ .halt t (.misaligned .data) pc' va' := by
  have translated : ∀ walk, translateAndAccess s op pc va walk mout ≠ .halt t (.misaligned .data) pc' va' := by
    intro walk
    unfold translateAndAccess
    cases translate .data s.pmem false walk va s with
    | hit pa => exact DataResult.toMem_ne_halt _ _ _ _ _ _
    | done u pa => exact DataResult.toMem_ne_halt _ _ _ _ _ _
    | retry u step issued => simp
    | pageFault u => simp
    | slotMismatch u => simp
    | stop x => simp
  unfold dataAccess
  rw [hal, if_neg Bool.false_ne_true]
  cases s.ms with
  | idle => exact translated _
  | dTlb step issued => exact translated _
  | dDeferred pa => exact DataResult.toMem_ne_halt _ _ _ _ _ _
  | dEvict pa way victimPa issued => exact DataResult.toMem_ne_halt _ _ _ _ _ _
  | dFill pa way issued => exact DataResult.toMem_ne_halt _ _ _ _ _ _
  | dWriteThrough pa issued => exact DataResult.toMem_ne_halt _ _ _ _ _ _

/-- An aligned access whose translation faults halts with its address (R84, R86, R304). -/
theorem dataAccess_pageFault {s t : State} {op : DataOp} {va : Word} (hal : misalignedData va op.size = false)
    {walk : Option (WalkStep × Bool)} (hwalk : s.dataWalk walk)
    (ht : translate .data s.pmem false walk va s = .pageFault t) (pc : Word)
    (mout : PAddr → List (Option Byte) → WLatch) :
    dataAccess s op pc va mout = .halt t (.pageFault .data) pc va := by
  unfold dataAccess
  rw [hal, if_neg Bool.false_ne_true]
  obtain ⟨hms, rfl⟩ | ⟨step, issued, hms, rfl⟩ := hwalk
  · simp [hms, translateAndAccess, ht]
  · simp [hms, translateAndAccess, ht]

/-- Settles O39: the alignment test comes first; past it only the translation can halt. -/
theorem memoryHalts : Obligations.MemoryHalts := by
  intro s pc va rd size signed value hm
  obtain ⟨op, hsize, mout, hstage⟩ : ∃ op : DataOp, op.size = size ∧ ∃ mout, memoryStage s = dataAccess s op pc va mout := by
    obtain hm | hm := hm
    · exact ⟨.load size, rfl, memoryStage_eq_dataAccess (value := value) (.inl ⟨hm, rfl⟩)⟩
    · exact ⟨.store size value, rfl, memoryStage_eq_dataAccess (rd := rd) (signed := signed) (.inr ⟨hm, rfl⟩)⟩
  rw [hstage, ← misalignedData_iff, ← hsize]
  refine ⟨fun hmis => ?_, fun hal => ?_⟩
  · rw [dataAccess, if_pos hmis]
  · have hal' : misalignedData va op.size = false := by simpa using hal
    exact ⟨dataAccess_ne_misaligned hal' pc mout, fun walk t hwalk ht => dataAccess_pageFault hal' hwalk ht pc mout⟩

/-! ## An access whose line is in the data cache (R96, R103, R104) -/

/-- The cache holds the access's line in this cycle, in state `u`: it is reached there, its fill completes, or its
write-through goes on. -/
def State.findsLine (s : State) (va : Word) (pa : PAddr) (way : Nat) (u : State) (spent : Bool) : Prop :=
  s.reachesCache va u pa spent ∨ (s.fillCompletes va pa way u ∧ spent = true) ∨
    (u = s ∧ spent = false ∧ ∃ issued, s.ms = .dWriteThrough pa issued)

section
variable {s u : State} {va : Word} {pa : PAddr} {way : Nat} {spent : Bool}

theorem State.findsLine.params (h : s.findsLine va pa way u spent) : u.params = s.params := by
  obtain ⟨⟨rfl, -, -⟩ | ⟨-, walk, -, ht⟩⟩ | ⟨⟨t, rest, hfill, -, -, -, rfl⟩, -⟩ | ⟨rfl, -⟩ := h
  · rfl
  · obtain ⟨dtlb, latency, rfl⟩ := translate_data_done ht
    rfl
  · obtain ⟨victims, draws, rfl⟩ := eq_of_fillsWay_or_writesBack (.inl hfill)
    rfl
  · rfl

/-- With the call free nothing has changed yet. -/
theorem State.findsLine.eq_of_free (h : s.findsLine va pa way u false) : u = s := by
  obtain ⟨⟨rfl, -, -⟩ | ⟨hs, -⟩⟩ | ⟨-, hs⟩ | ⟨rfl, -⟩ := h
  · rfl
  · cases hs
  · cases hs
  · rfl

/-- A fill whose read is answered serves the access from the line it installs (R101). -/
theorem fillStep_answered {op : DataOp} (hop : ∀ value, op ≠ .store .b8 value) {rest : List Bool}
    (hl : s.latency = true :: rest) (hin : lineBase Config.dline pa + Config.dline ≤ s.params.pmemSize) (way : Nat)
    (issued : Bool) :
    fillStep s op pa way issued =
      serveHit
        ((s.answered rest).setDLine pa way
          { valid := true, tag := s.dTag pa, data := s.pmem.readBytes (lineBase Config.dline pa) 8, dirty := false })
        op pa way true := by
  obtain ⟨value, rfl, -⟩ | ⟨-, hf⟩ := fillStep_cases s op pa way issued
  · exact absurd rfl (hop value)
  · rw [hf, physRead_answered hl hin, if_pos rfl]
    rfl

/-- A fill that completes serves the access from the way it filled (R101). -/
theorem dataAccess_of_fillCompletes (h : s.fillCompletes va pa way u) {op : DataOp}
    (hal : misalignedData va op.size = false) (hop : ∀ value, op ≠ .store .b8 value) (pc : Word)
    (mout : PAddr → List (Option Byte) → WLatch) :
    dataAccess s op pc va mout = (serveHit u op pa way true).toMem (mout pa) := by
  obtain ⟨t, rest, hfill, -, hin, hl, rfl⟩ := h
  obtain ⟨issued, haccess⟩ := dataAccess_of_fillsWay hfill op hal pc mout
  obtain ⟨victims, draws, rfl⟩ := eq_of_fillsWay_or_writesBack (.inl hfill)
  rw [haccess, fillStep_answered hop (by exact hl) (by exact hin)]
  rfl

/-- Wherever the cache holds the access's line, the access is served from there (R96, R100). -/
theorem dataAccess_of_findsLine (h : s.findsLine va pa way u spent)
    (hway : hitWay (u.dcache.ways (u.dIndex pa)) (u.dTag pa) = some way) {op : DataOp}
    (hop : s.asks op) (hva : s.m.access = some (va, op.size)) (hal : misalignedData va op.size = false) (pc : Word)
    (mout : PAddr → List (Option Byte) → WLatch) :
    dataAccess s op pc va mout = (serveHit u op pa way spent).toMem (mout pa) := by
  have hit : dcacheAccess u op pa spent = serveHit u op pa way spent := by
    unfold dcacheAccess
    rw [hway]
  obtain hreach | ⟨hfill, rfl⟩ | ⟨rfl, rfl, issued, hms⟩ := h
  · rw [dataAccess_of_reachesCache hreach op hal, hit]
  · refine dataAccess_of_fillCompletes hfill hal ?_ pc mout
    rintro value rfl
    obtain ⟨pc', va', hm⟩ := hop
    obtain ⟨_, _, _, hne, _⟩ := hfill
    rw [hm] at hva
    cases hva
    exact hne pc' value hm
  · simp [dataAccess, hal, hms, hit]

/-- Under write-back the line a store mutates is dirty (R103). -/
theorem mutateLine_of_writeBack (h : s.writeBack = true) (pa : PAddr) (way : Nat) (size : AccessSize) (value : Word) :
    mutateLine s pa way size value =
      { s with
        dcache := s.dcache.setLine (s.dIndex pa) way
          { s.dLine pa way with
            data := putSlice (s.dLine pa way).data (lineOffset Config.dline pa) (knownBytes size value)
            dirty := true }
        stored := storedAdd s.stored pa.toNat size.bytes } := by
  unfold mutateLine
  rw [h]
  rfl

/-- Under write-through it keeps its dirty bit (R104). -/
theorem mutateLine_of_writeThrough (h : s.writeBack = false) (pa : PAddr) (way : Nat) (size : AccessSize) (value : Word) :
    mutateLine s pa way size value =
      { s with
        dcache := s.dcache.setLine (s.dIndex pa) way
          { s.dLine pa way with
            data := putSlice (s.dLine pa way).data (lineOffset Config.dline pa) (knownBytes size value) }
        stored := storedAdd s.stored pa.toNat size.bytes } := by
  unfold mutateLine
  rw [h]
  rfl

/-- Settles O40: the access is served from the way that holds its line; a write-through store by its call's answer. -/
theorem hitCompletes : Obligations.HitCompletes := by
  intro s u pc va rd size signed value pa way spent hal hfinds hway line bytes stored
  have hfinds : s.findsLine va pa way u spent := hfinds
  have hal' : misalignedData va size = false := by
    rw [← misalignedData_iff] at hal
    simpa using hal
  have hstore : s.m = .store pc va size value →
      memoryStage s = (serveHit u (.store size value) pa way spent).toMem fun _ => .retire pc none 0#64 := by
    intro hm
    have hserve := dataAccess_of_findsLine (op := .store size value) hfinds hway ⟨pc, va, hm⟩ (by rw [hm]; rfl) hal' pc
      fun _ _ => .retire pc none 0#64
    rw [← hserve, memoryStage, hm]
  refine ⟨fun hm => ?_, fun hm hpolicy => ?_, fun hm hpolicy => ?_⟩
  · have hserve := dataAccess_of_findsLine (op := .load size) hfinds hway ⟨pc, rd, va, signed, hm⟩ (by rw [hm]; rfl) hal'
      pc fun pa bytes => .retire pc rd (loadValue size signed pa bytes)
    rw [memoryStage, hm]
    exact hserve
  · have hwb : u.writeBack = true := by simp [State.writeBack, hfinds.params, hpolicy]
    rw [hstore hm, serveHit_writeBack hwb, mutateLine_of_writeBack hwb]
    exact ⟨0#64, rfl⟩
  · have hwb : u.writeBack = false := by simp [State.writeBack, hfinds.params, hpolicy]
    refine ⟨?_, ?_⟩
    · rintro rfl
      refine ⟨false, ?_⟩
      rw [hstore hm]
      simp [serveHit, hwb, writeThroughStep, DataResult.toMem]
    · rintro rest rfl hin
      obtain rfl := hfinds.eq_of_free
      refine ⟨fun hl => ⟨0#64, ?_⟩, fun hl => ?_⟩
      · rw [hstore hm, serveHit_writeThrough hwb hl hin, if_pos rfl]
        rw [mutateLine_of_writeThrough (by exact hwb)]
        rfl
      · rw [hstore hm, serveHit_writeThrough hwb hl hin]
        rfl

end

end Sys2Proof.Machine

namespace Sys2Proof.Machine

/-! ## Immediates (R130 to R134) -/

section
variable {n : Nat}

/-- An offset whose zero bit is appended counts two times what its other bits count. -/
theorem toInt_signExtend_append_zeroBit (x : BitVec n) (hn : n + 1 ≤ 64) :
    ((x ++ 0#1).signExtend 64).toInt = 2 * x.toInt := by
  rw [BitVec.toInt_signExtend_of_le hn, BitVec.toInt_append_zero, Int.pow_one]

/-- So it is even, and within the range its width allows (R132, R134). -/
theorem signExtend_append_zeroBit_even_inRange (x : BitVec n) (hn : n + 1 ≤ 64) :
    ((x ++ 0#1).signExtend 64).toInt % 2 = 0 ∧ -2 ^ n ≤ ((x ++ 0#1).signExtend 64).toInt ∧
      ((x ++ 0#1).signExtend 64).toInt < 2 ^ n := by
  rw [toInt_signExtend_append_zeroBit x hn]
  exact ⟨Int.mul_emod_right 2 _, BitVec.le_two_mul_toInt, BitVec.two_mul_toInt_lt⟩

end

theorem sext13_fieldImmB_even_inRange (w : Word32) :
    (sext13 (fieldImmB w)).toInt % 2 = 0 ∧ -4096 ≤ (sext13 (fieldImmB w)).toInt ∧
      (sext13 (fieldImmB w)).toInt ≤ 4094 := by
  obtain ⟨heven, hlow, hhigh⟩ : (sext13 (fieldImmB w)).toInt % 2 = 0 ∧ -2 ^ 12 ≤ (sext13 (fieldImmB w)).toInt ∧
      (sext13 (fieldImmB w)).toInt < 2 ^ 12 :=
    signExtend_append_zeroBit_even_inRange (n := 12) _ (by decide)
  omega

theorem sext21_fieldImmJ_even_inRange (w : Word32) :
    (sext21 (fieldImmJ w)).toInt % 2 = 0 ∧ -1048576 ≤ (sext21 (fieldImmJ w)).toInt ∧
      (sext21 (fieldImmJ w)).toInt ≤ 1048574 := by
  obtain ⟨heven, hlow, hhigh⟩ : (sext21 (fieldImmJ w)).toInt % 2 = 0 ∧ -2 ^ 20 ≤ (sext21 (fieldImmJ w)).toInt ∧
      (sext21 (fieldImmJ w)).toInt < 2 ^ 20 :=
    signExtend_append_zeroBit_even_inRange (n := 20) _ (by decide)
  omega

/-- Bits [31:12] over twelve zeros are the word with its low bits masked away (R133). -/
theorem fieldImmU_append_zeros (w : Word32) : fieldImmU w ++ 0#12 = w &&& 0xFFFFF000#32 := by
  have hmask : 0xFFFFF000#32 = BitVec.allOnes 20 ++ 0#12 := rfl
  have hw : w.extractLsb' 12 20 ++ w.extractLsb' 0 12 = w :=
    (BitVec.extractLsb'_append_extractLsb'_eq_extractLsb' rfl).trans BitVec.extractLsb'_eq_self
  calc fieldImmU w ++ 0#12
      = (w.extractLsb' 12 20 ++ w.extractLsb' 0 12) &&& (BitVec.allOnes 20 ++ 0#12) := by
        rw [BitVec.and_append, BitVec.and_allOnes, BitVec.and_zero, fieldImmU]
    _ = w &&& 0xFFFFF000#32 := by rw [hw, hmask]

theorem immU_fieldImmU (w : Word32) : immU (fieldImmU w) = (w &&& 0xFFFFF000#32).signExtend 64 := by
  rw [immU, fieldImmU_append_zeros, sext32]

theorem immU_low (imm20 : BitVec 20) : (immU imm20).extractLsb' 0 12 = 0#12 := by
  refine BitVec.eq_of_getLsbD_eq fun i hi => ?_
  have hi32 : i < 32 := by omega
  rw [BitVec.getLsbD_extractLsb', immU, sext32, BitVec.getLsbD_signExtend, BitVec.getLsbD_append]
  simp [hi, hi32]

/-- Above bit 31 a sign-extended 32-bit value holds copies of its bit 31 (R133, R172). -/
theorem sext32_high (v : Word32) :
    (sext32 v).extractLsb' 32 32 = if v.msb then 0xFFFFFFFF#32 else 0#32 := by
  have hbits : ∀ i < 32, ((sext32 v).extractLsb' 32 32).getLsbD i = v.msb := by
    intro i hi
    have : 32 + i < 64 := by omega
    rw [BitVec.getLsbD_extractLsb', sext32, BitVec.getLsbD_signExtend]
    simp [hi, this]
  refine BitVec.eq_of_getLsbD_eq fun i hi => ?_
  rw [hbits i hi]
  have hones : (0xFFFFFFFF#32).getLsbD i = true := by
    rw [show 0xFFFFFFFF#32 = BitVec.allOnes 32 from rfl, BitVec.getLsbD_allOnes, decide_eq_true hi]
  cases v.msb with
  | false => simp
  | true => simpa using hones.symm

theorem immU_fieldImmU_high (w : Word32) :
    (immU (fieldImmU w)).extractLsb' 32 32 = if w.getLsbD 31 then 0xFFFFFFFF#32 else 0#32 := by
  have hmsb : (fieldImmU w ++ 0#12 : Word32).msb = w.getLsbD 31 := by
    rw [BitVec.msb_append, if_neg (by decide), fieldImmU, BitVec.msb_extractLsb']
    rfl
  rw [immU, sext32_high, hmsb]

/-- Settles O6: the layouts are those the decoder's fields read; an appended zero bit makes an offset even, and twelve of
them leave the U-immediate its upper bits. -/
theorem immediateFields : Obligations.ImmediateFields := by
  intro w
  exact ⟨rfl, rfl, rfl, sext13_fieldImmB_even_inRange w, immU_fieldImmU w, ⟨immU_low _, immU_fieldImmU_high w⟩, rfl,
    sext21_fieldImmJ_even_inRange w⟩

end Sys2Proof.Machine

namespace Sys2Proof.Machine

/-! ## The words of instructions (R122, R136) -/

/-- Only `ZERO` and words without a row can be the all-zero word: every other row fixes a non-zero major opcode (R137). -/
theorem encode_ne_zero {i : Instr} (hzero : i ≠ .zero) (hrow : ∀ w, i ≠ .illegal w) : encode i ≠ 0#32 := by
  refine ne_zero_of_opcode ?_
  cases i
  case zero => exact absurd rfl hzero
  case illegal w => exact absurd rfl (hrow w)
  all_goals simp [encode]

/-- The word of an instruction that has a row of the table decodes to it: its major opcode selects the sub-table, and there
its `funct` fields select its row. -/
theorem decodeWord_encode_of_row (i : Instr) (hwf : i.wf = true) (hrow : ∀ w, i ≠ .illegal w) :
    decodeWord (encode i) = i := by
  by_cases hzero : i = .zero
  · rw [hzero]; rfl
  rw [decodeWord, if_neg (encode_ne_zero hzero hrow)]
  cases i
  case zero => exact absurd rfl hzero
  case illegal w => exact absurd rfl (hrow w)
  case lb | lh | lw | ld | lbu | lhu | lwu => simp [encode, decodeLoad]
  case sb | sh | sw | sd => simp [encode, decodeStore]
  case addi | slti | sltiu | xori | ori | andi | slli | srli | srai => simp [encode, decodeOpImm]
  case addiw | slliw | srliw | sraiw => simp [encode, decodeOpImm32]
  case add | sub | sll | slt | sltu | xor | srl | sra | or | and | mul | mulh | mulhsu | mulhu | div | divu | rem | remu =>
    simp [encode, decodeOp]
  case addw | subw | sllw | srlw | sraw | mulw | divw | divuw | remw | remuw => simp [encode, decodeOp32]
  case beq | bne | blt | bge | bltu | bgeu =>
    simp [encode, decodeBranch, fieldImmB_encB _ _ _ _ _ (eq_of_beq hwf)]
  case jal => simp [encode, fieldImmJ_encJ _ _ _ (eq_of_beq hwf)]
  case jalr => simp [encode, decodeJalr]
  case lui | auipc | miscMem | amo | system => simp [encode]

/-- OP-IMM-32 words go to their sub-table (R137). -/
theorem decodeWord_opImm32 {w : Word32} (hop : fieldOpcode w = 0x1B#7) : decodeWord w = decodeOpImm32 w := by
  rw [decodeWord, if_neg (ne_zero_of_opcode (by simp [hop]))]
  simp [hop]

/-- `SLLIW` fixes `funct7`, whose lowest bit is bit 25 of the word (R135, R174). -/
theorem decodeWord_slliw_bit25 {w : Word32} (hop : fieldOpcode w = 0x1B#7) (hf3 : fieldFunct3 w = 0b001#3)
    (hbit : w.getLsbD 25 = true) : decodeWord w = .illegal w := by
  have hf7 : fieldFunct7 w ≠ 0b0000000#7 := by
    intro hf7
    have hlow : (fieldFunct7 w).getLsbD 0 = w.getLsbD 25 := by simp [fieldFunct7]
    rw [hf7, hbit] at hlow
    exact absurd hlow (by decide)
  rw [decodeWord_opImm32 hop]
  simp [decodeOpImm32, hf3, hf7]

/-! ## Comparisons and shift amounts as the rules write them (R152, R153, R183) -/

theorem boolWord_ltSigned (a b : Word) : boolWord (ltSigned a b) = if a.toInt < b.toInt then 1#64 else 0#64 := by
  simp [boolWord, ltSigned]

theorem boolWord_ltUnsigned (a b : Word) :
    boolWord (ltUnsigned a b) = if a.toNat < b.toNat then 1#64 else 0#64 := by
  simp [boolWord, ltUnsigned]

theorem shamt64_eq_extractLsb' (b : Word) : shamt64 b = (b.extractLsb' 0 6).toNat := by
  rw [shamt64, BitVec.setWidth_eq_extractLsb' (by decide)]

theorem shamt32_eq_extractLsb' (b : Word) : shamt32 b = (b.extractLsb' 0 5).toNat := by
  rw [shamt32, BitVec.setWidth_eq_extractLsb' (by decide)]

/-! ## The integer instructions (R150 to R181) -/

/-- Settles O8: each meaning is the result template, and each word the encoder's; the comparisons are `boolWord`s. -/
theorem immediateResults : Obligations.ImmediateResults := by
  intro s v rd rs1 imm shamt imm20 hx
  rw [← boolWord_ltSigned, ← boolWord_ltUnsigned]
  exact ⟨⟨execResult_instr hx rd _, decodeWord_encode_of_row (.addi rd rs1 imm) rfl nofun⟩,
    ⟨execResult_instr hx rd _, decodeWord_encode_of_row (.slti rd rs1 imm) rfl nofun⟩,
    ⟨execResult_instr hx rd _, decodeWord_encode_of_row (.sltiu rd rs1 imm) rfl nofun⟩,
    ⟨execResult_instr hx rd _, decodeWord_encode_of_row (.xori rd rs1 imm) rfl nofun⟩,
    ⟨execResult_instr hx rd _, decodeWord_encode_of_row (.ori rd rs1 imm) rfl nofun⟩,
    ⟨execResult_instr hx rd _, decodeWord_encode_of_row (.andi rd rs1 imm) rfl nofun⟩,
    ⟨execResult_instr hx rd _, decodeWord_encode_of_row (.slli rd rs1 shamt) rfl nofun⟩,
    ⟨execResult_instr hx rd _, decodeWord_encode_of_row (.srli rd rs1 shamt) rfl nofun⟩,
    ⟨execResult_instr hx rd _, decodeWord_encode_of_row (.srai rd rs1 shamt) rfl nofun⟩,
    ⟨execResult_instr hx rd _, decodeWord_encode_of_row (.lui rd imm20) rfl nofun, rfl, rfl⟩,
    ⟨execResult_instr hx rd _, decodeWord_encode_of_row (.auipc rd imm20) rfl nofun, rfl, rfl⟩⟩

/-- Settles O9: as O8, with the shift amounts `b[5:0]`. -/
theorem opResults : Obligations.OpResults := by
  intro s v rd rs1 rs2 hx
  rw [← boolWord_ltSigned, ← boolWord_ltUnsigned, ← shamt64_eq_extractLsb']
  exact ⟨⟨execResult_instr hx rd _, decodeWord_encode_of_row (.add rd rs1 rs2) rfl nofun⟩,
    ⟨execResult_instr hx rd _, decodeWord_encode_of_row (.sub rd rs1 rs2) rfl nofun⟩,
    ⟨execResult_instr hx rd _, decodeWord_encode_of_row (.sll rd rs1 rs2) rfl nofun⟩,
    ⟨execResult_instr hx rd _, decodeWord_encode_of_row (.slt rd rs1 rs2) rfl nofun⟩,
    ⟨execResult_instr hx rd _, decodeWord_encode_of_row (.sltu rd rs1 rs2) rfl nofun⟩,
    ⟨execResult_instr hx rd _, decodeWord_encode_of_row (.xor rd rs1 rs2) rfl nofun⟩,
    ⟨execResult_instr hx rd _, decodeWord_encode_of_row (.srl rd rs1 rs2) rfl nofun⟩,
    ⟨execResult_instr hx rd _, decodeWord_encode_of_row (.sra rd rs1 rs2) rfl nofun⟩,
    ⟨execResult_instr hx rd _, decodeWord_encode_of_row (.or rd rs1 rs2) rfl nofun⟩,
    ⟨execResult_instr hx rd _, decodeWord_encode_of_row (.and rd rs1 rs2) rfl nofun⟩⟩

/-- Settles O10: as O9, with the shift amounts `b[4:0]`; a `SLLIW` word with bit 25 set has no row. -/
theorem wordFormResults : Obligations.WordFormResults := by
  intro s v rd rs1 rs2 imm shamt hx
  rw [← shamt32_eq_extractLsb']
  exact ⟨⟨execResult_instr hx rd _, decodeWord_encode_of_row (.addiw rd rs1 imm) rfl nofun⟩,
    ⟨execResult_instr hx rd _, decodeWord_encode_of_row (.slliw rd rs1 shamt) rfl nofun,
      fun _ => decodeWord_slliw_bit25⟩,
    ⟨execResult_instr hx rd _, decodeWord_encode_of_row (.srliw rd rs1 shamt) rfl nofun⟩,
    ⟨execResult_instr hx rd _, decodeWord_encode_of_row (.sraiw rd rs1 shamt) rfl nofun⟩,
    ⟨execResult_instr hx rd _, decodeWord_encode_of_row (.addw rd rs1 rs2) rfl nofun⟩,
    ⟨execResult_instr hx rd _, decodeWord_encode_of_row (.subw rd rs1 rs2) rfl nofun⟩,
    ⟨execResult_instr hx rd _, decodeWord_encode_of_row (.sllw rd rs1 rs2) rfl nofun⟩,
    ⟨execResult_instr hx rd _, decodeWord_encode_of_row (.srlw rd rs1 rs2) rfl nofun⟩,
    ⟨execResult_instr hx rd _, decodeWord_encode_of_row (.sraw rd rs1 rs2) rfl nofun⟩⟩

end Sys2Proof.Machine

namespace Sys2Proof.Machine

/-! ## Products and sentinels as the rules write them (R201, R206) -/

/-- The model narrows every product from the integers; the unsigned one is a natural number (R206). -/
theorem highHalf_natCast (a b : Nat) : highHalf ((a : Int) * b) = (BitVec.ofNat 128 (a * b)).extractLsb' 64 64 := by
  rw [highHalf, ← Int.natCast_mul, BitVec.ofInt_natCast]

theorem orSentinel_sentinel64 (a b value : Word) :
    orSentinel (sentinel64 a b) value = if b = 0#64 ∨ (a = min64 ∧ b = ones64) then ones64 else value := by
  simp [orSentinel, sentinel64]

theorem orSentinel_sentinelU64 (p : Params) (a b value : Word) :
    orSentinel (sentinelU64 p a b) value
      = if b = 0#64 ∨ (p.divSentinelUnsigned = true ∧ a = min64 ∧ b = ones64) then ones64 else value := by
  simp [orSentinel, sentinelU64]

theorem orSentinel_sentinel32 (a b : Word32) (value : Word) :
    orSentinel (sentinel32 a b) value = if b = 0#32 ∨ (a = min32 ∧ b = ones32) then ones64 else value := by
  simp [orSentinel, sentinel32]

theorem orSentinel_sentinelU32 (p : Params) (a b : Word32) (value : Word) :
    orSentinel (sentinelU32 p a b) value
      = if b = 0#32 ∨ (p.divSentinelUnsigned = true ∧ a = min32 ∧ b = ones32) then ones64 else value := by
  simp [orSentinel, sentinelU32]

/-! ## The multiplies and divides (R203 to R215) -/

/-- Settles O11: each meaning is the result template, and each word the encoder's; `MULHU` narrows a natural number. -/
theorem multiplyResults : Obligations.MultiplyResults := by
  intro s v rd rs1 rs2 hx
  rw [← highHalf_natCast]
  exact ⟨⟨execResult_instr hx rd _, decodeWord_encode_of_row (.mul rd rs1 rs2) rfl nofun⟩,
    ⟨execResult_instr hx rd _, decodeWord_encode_of_row (.mulh rd rs1 rs2) rfl nofun⟩,
    ⟨execResult_instr hx rd _, decodeWord_encode_of_row (.mulhsu rd rs1 rs2) rfl nofun⟩,
    ⟨execResult_instr hx rd _, decodeWord_encode_of_row (.mulhu rd rs1 rs2) rfl nofun⟩,
    ⟨execResult_instr hx rd _, decodeWord_encode_of_row (.mulw rd rs1 rs2) rfl nofun⟩⟩

/-- Settles O12: as O11, with each sentinel test written as the condition it decides. -/
theorem divideResults : Obligations.DivideResults := by
  intro s v rd rs1 rs2 hx a b a32 b32 S64 U64 S32 U32
  simp only [S64, U64, S32, U32, ← orSentinel_sentinel64, ← orSentinel_sentinelU64, ← orSentinel_sentinel32,
    ← orSentinel_sentinelU32]
  exact ⟨⟨execResult_instr hx rd _, decodeWord_encode_of_row (.div rd rs1 rs2) rfl nofun⟩,
    ⟨execResult_instr hx rd _, decodeWord_encode_of_row (.divu rd rs1 rs2) rfl nofun⟩,
    ⟨execResult_instr hx rd _, decodeWord_encode_of_row (.rem rd rs1 rs2) rfl nofun⟩,
    ⟨execResult_instr hx rd _, decodeWord_encode_of_row (.remu rd rs1 rs2) rfl nofun⟩,
    ⟨execResult_instr hx rd _, decodeWord_encode_of_row (.divw rd rs1 rs2) rfl nofun⟩,
    ⟨execResult_instr hx rd _, decodeWord_encode_of_row (.divuw rd rs1 rs2) rfl nofun⟩,
    ⟨execResult_instr hx rd _, decodeWord_encode_of_row (.remw rd rs1 rs2) rfl nofun⟩,
    ⟨execResult_instr hx rd _, decodeWord_encode_of_row (.remuw rd rs1 rs2) rfl nofun⟩⟩

/-! ## The division laws (R202, R216) -/

/-- `a = b * q + r` with `q` rounded toward zero: the remainder is smaller in magnitude than the divisor, and 0 or of the
dividend's sign (R216). -/
def TruncatedDivision (a b q r : Int) : Prop :=
  a = b * q + r ∧ r.natAbs < b.natAbs ∧ (r = 0 ∨ (0 < r ∧ 0 < a) ∨ (r < 0 ∧ a < 0))

theorem truncatedDivision_tdiv_tmod {a b : Int} (hb : b ≠ 0) : TruncatedDivision a b (a.tdiv b) (a.tmod b) := by
  refine ⟨(Int.mul_tdiv_add_tmod a b).symm, ?_, ?_⟩
  · rw [Int.natAbs_tmod]
    exact Nat.mod_lt _ (Int.natAbs_pos.2 hb)
  · have hsign := Int.sign_tmod a b
    split at hsign
    · exact .inl (Int.sign_eq_zero_iff_zero.1 hsign)
    · obtain ha | rfl | ha := Int.lt_trichotomy a 0
      · rw [Int.sign_eq_neg_one_of_neg ha] at hsign
        exact .inr (.inr ⟨Int.neg_of_sign_eq_neg_one hsign, ha⟩)
      · exact .inl (Int.zero_tmod b)
      · rw [Int.sign_eq_one_of_pos ha] at hsign
        exact .inr (.inl ⟨Int.pos_of_sign_eq_one hsign, ha⟩)

/-- Outside the sentinel condition the signed quotient and remainder fit their width: only the most negative value divided
by -1 overflows. -/
theorem truncatedDivision_ofInt {w : Nat} {a b : BitVec w} (h : ¬(b = 0#w ∨ (a = BitVec.intMin w ∧ b = -1#w))) :
    TruncatedDivision a.toInt b.toInt (BitVec.ofInt w (a.toInt.tdiv b.toInt)).toInt
      (BitVec.ofInt w (a.toInt - b.toInt * a.toInt.tdiv b.toInt)).toInt := by
  rw [not_or, not_and_or] at h
  obtain ⟨hzero, hoverflow⟩ := h
  have hq : (BitVec.ofInt w (a.toInt.tdiv b.toInt)).toInt = a.toInt.tdiv b.toInt := by
    rw [BitVec.toInt_ofInt, ← BitVec.toInt_sdiv, BitVec.toInt_sdiv_of_ne_or_ne a b hoverflow]
  have hr : (BitVec.ofInt w (a.toInt - b.toInt * a.toInt.tdiv b.toInt)).toInt = a.toInt.tmod b.toInt := by
    rw [← Int.tmod_def, ← BitVec.toInt_srem, BitVec.ofInt_toInt]
  rw [hq, hr]
  exact truncatedDivision_tdiv_tmod (by rwa [← BitVec.toInt_zero, BitVec.toInt_ne])

/-- The unsigned quotient and remainder fit their width. -/
theorem unsignedDivision_ofNat {w : Nat} {a b : BitVec w} (hb : b ≠ 0#w) :
    a.toNat = b.toNat * (BitVec.ofNat w (a.toNat / b.toNat)).toNat + (BitVec.ofNat w (a.toNat % b.toNat)).toNat
      ∧ (BitVec.ofNat w (a.toNat % b.toNat)).toNat < b.toNat := by
  have hq : (BitVec.ofNat w (a.toNat / b.toNat)).toNat = a.toNat / b.toNat := by
    rw [← BitVec.udiv_def, BitVec.toNat_udiv]
  have hr : (BitVec.ofNat w (a.toNat % b.toNat)).toNat = a.toNat % b.toNat := by
    rw [← BitVec.umod_def, BitVec.toNat_umod]
  rw [hq, hr]
  exact ⟨(Nat.div_add_mod _ _).symm, Nat.mod_lt _ (BitVec.toNat_pos_of_ne_zero hb)⟩

/-- A completed result is the register write that latch `M` holds (R150, R200). -/
theorem exec_m_of_withResult {i : Instr} {s : State} {v : XInstr} {rd : Reg} {result : Word}
    (h : exec i s = s.withResult v rd result) : ∃ t, exec i s = .next t ∧ t.m = .reg v.pc (some rd) result :=
  h ▸ s.withResult_m v rd result

/-- Settles O13: the results are those of O12; under the sentinel condition both are all ones, outside it they fit their
width and are the exact quotient and remainder. -/
theorem divisionLaws : Obligations.DivisionLaws := by
  intro s v rd rs1 rs2 hx a b a32 b32 signedLaw unsignedLaw writes
  obtain ⟨⟨hdiv, -⟩, ⟨hdivu, -⟩, ⟨hrem, -⟩, ⟨hremu, -⟩, ⟨hdivw, -⟩, ⟨hdivuw, -⟩, ⟨hremw, -⟩, ⟨hremuw, -⟩⟩ :=
    divideResults s v rd rs1 rs2 hx
  refine ⟨⟨_, _, exec_m_of_withResult hdiv, exec_m_of_withResult hrem, ?_⟩,
    ⟨_, _, exec_m_of_withResult hdivu, exec_m_of_withResult hremu, ?_⟩,
    ⟨_, _, exec_m_of_withResult hdivw, exec_m_of_withResult hremw, ?_⟩,
    ⟨_, _, exec_m_of_withResult hdivuw, exec_m_of_withResult hremuw, ?_⟩⟩
  · split_ifs with h
    · exact ⟨rfl, rfl⟩
    · exact truncatedDivision_ofInt h
  · split_ifs with h
    · exact ⟨rfl, rfl⟩
    · exact unsignedDivision_ofNat (not_or.1 h).1
  · split_ifs with h
    · exact ⟨rfl, rfl⟩
    · exact ⟨_, _, rfl, rfl, truncatedDivision_ofInt h⟩
  · split_ifs with h
    · exact ⟨rfl, rfl⟩
    · exact ⟨_, _, rfl, rfl, unsignedDivision_ofNat (not_or.1 h).1⟩

end Sys2Proof.Machine

namespace Sys2Proof.Machine

/-! ## The predictor's index and counter as the rules write them (R246, R250) -/

theorem bpIndex_eq_extractLsb' (p : Params) (addr : Word) :
    bpIndex p addr = (addr >>> p.bpIndexShift).extractLsb' 0 5 := by
  rw [bpIndex, BitVec.setWidth_eq_extractLsb' (by decide)]

/-- The two-bit counter saturates as a number between 0 and 3. -/
theorem bumpCounter_eq_ofNat (ctr : BitVec 2) (taken : Bool) :
    bumpCounter ctr taken = BitVec.ofNat 2 (if taken then min 3 (ctr.toNat + 1) else ctr.toNat - 1) := by
  revert ctr taken
  decide

/-! ## The predictor's lookup (R247, R248) -/

theorem predictsTaken_counter2 {p : Params} (h : p.bpPolicy = .counter2) (e : BpEntry) (pc : Word) :
    predictsTaken p e pc = true ↔ e.branch = pc ∧ 2 ≤ e.ctr.toNat := by
  simp [predictsTaken, h]

theorem predictsTaken_btfnt {p : Params} (h : p.bpPolicy = .btfnt) (e : BpEntry) (pc : Word) :
    predictsTaken p e pc = true ↔ e.branch = pc ∧ e.target.toNat ≤ (pc + 4#64).toNat := by
  simp only [predictsTaken, h, Bool.and_eq_true, beq_iff_eq, decide_eq_true_iff]

/-- Settles O33: the lookup reads the entry at the address's index, and each policy's test decides the condition the rule
states. -/
theorem predictorLookup : Obligations.PredictorLookup := by
  intro p bp pc e
  have hlookup : predict p bp pc = if predictsTaken p e pc then e.target else pc + 4#64 := by
    simp only [predict, bpIndex_eq_extractLsb', e]
  rw [hlookup]
  exact ⟨fun h => if_congr (predictsTaken_counter2 h e pc) rfl rfl,
    fun h => if_congr (predictsTaken_btfnt h e pc) rfl rfl⟩

/-! ## The predictor's update (R249 to R251) -/

/-- The updated entry, with the counter moved as a number. -/
theorem updateEntry_eq_ite (e : BpEntry) (pc target : Word) (taken : Prop) [Decidable taken] :
    updateEntry e pc target (decide taken) =
      if e.target = target then
        { e with ctr := BitVec.ofNat 2 (if taken then min 3 (e.ctr.toNat + 1) else e.ctr.toNat - 1) }
      else { branch := pc, target := target, ctr := if taken then 3#2 else 0#2 } := by
  simp only [updateEntry, bumpCounter_eq_ofNat, decide_eq_true_iff]

/-- The table write is at the index of the target or of the branch (R246). -/
theorem bpWrite_eq_set (p : Params) (bp : Vector BpEntry 32) (pc target : Word) (taken : Bool) :
    let i := ((if p.bpUpdateIndex = .target then target else pc) >>> p.bpIndexShift).extractLsb' 0 5
    bpWrite p bp pc target taken = bp.set i.toNat (updateEntry bp[i.toNat] pc target taken) := by
  obtain hindex | hindex : p.bpUpdateIndex = .target ∨ p.bpUpdateIndex = .branch := by
    cases p.bpUpdateIndex with
    | target => exact .inl rfl
    | branch => exact .inr rfl
  · simp [bpWrite, hindex, bpIndex_eq_extractLsb']
  · simp [bpWrite, hindex, bpIndex_eq_extractLsb']

/-- The update is skipped for a fall-through under `taken`; else it trains the entry towards the outcome (R249). -/
theorem bpResolve_eq_ite (p : Params) (bp : Vector BpEntry 32) (pc nextPc takenTarget : Word) :
    bpResolve p bp pc nextPc takenTarget =
      if p.bpUpdateOn = .taken ∧ nextPc = pc + 4#64 then bp
      else
        bpWrite p bp pc (if p.bpUpdateOn = .taken then nextPc else takenTarget) (decide (nextPc ≠ pc + 4#64)) := by
  cases hon : p.bpUpdateOn with
  | taken => by_cases hpc : nextPc = pc + 4#64 <;> simp [bpResolve, hon, hpc]
  | everyControl => simp [bpResolve, hon, bne, beq_eq_decide]

/-- Settles O34: by when the update is made, at which index, and what it does to the entry there. -/
theorem predictorUpdate : Obligations.PredictorUpdate := by
  intro p bp pc nextPc takenTarget taken target i e moved
  rw [bpResolve_eq_ite, bpWrite_eq_set, updateEntry_eq_ite]

/-! ## Branches and jumps (R231 to R238) -/

/-- A branch whose test decides `taken`. -/
theorem execBranch_of_iff {s : State} {v : XInstr} (h : s.x = .instr v) (cond : Word → Word → Bool) {taken : Prop}
    [Decidable taken] (hcond : cond v.a v.b = true ↔ taken) (offset : BitVec 13) :
    execBranch cond offset s =
      s.withTransfer v (.noEffect v.pc) (if taken then v.pc + offset.signExtend 64 else v.pc + 4#64)
        (v.pc + offset.signExtend 64) := by
  rw [execBranch_instr h, if_congr hcond rfl rfl, sext13]

theorem ltSigned_iff (a b : Word) : ltSigned a b = true ↔ a.toInt < b.toInt := decide_eq_true_iff

theorem not_ltSigned_iff (a b : Word) : (!ltSigned a b) = true ↔ b.toInt ≤ a.toInt := by
  rw [Bool.not_eq_true', ← Bool.not_eq_true, ltSigned_iff, Int.not_lt]

theorem ltUnsigned_iff (a b : Word) : ltUnsigned a b = true ↔ a.toNat < b.toNat := decide_eq_true_iff

theorem not_ltUnsigned_iff (a b : Word) : (!ltUnsigned a b) = true ↔ b.toNat ≤ a.toNat := by
  rw [Bool.not_eq_true', ← Bool.not_eq_true, ltUnsigned_iff, Nat.not_lt]

/-- Settles O15: each meaning is the branch template with the test the rule states, and each word the encoder's. -/
theorem branchResults : Obligations.BranchResults := by
  intro s v rs1 rs2 offset hx
  exact ⟨⟨execBranch_of_iff hx (fun a b => a == b) beq_iff_eq offset,
      fun h => decodeWord_encode_of_row (.beq rs1 rs2 offset) (beq_iff_eq.2 h) nofun⟩,
    ⟨execBranch_of_iff hx (fun a b => a != b) bne_iff_ne offset,
      fun h => decodeWord_encode_of_row (.bne rs1 rs2 offset) (beq_iff_eq.2 h) nofun⟩,
    ⟨execBranch_of_iff hx ltSigned (ltSigned_iff _ _) offset,
      fun h => decodeWord_encode_of_row (.blt rs1 rs2 offset) (beq_iff_eq.2 h) nofun⟩,
    ⟨execBranch_of_iff hx (fun a b => !ltSigned a b) (not_ltSigned_iff _ _) offset,
      fun h => decodeWord_encode_of_row (.bge rs1 rs2 offset) (beq_iff_eq.2 h) nofun⟩,
    ⟨execBranch_of_iff hx ltUnsigned (ltUnsigned_iff _ _) offset,
      fun h => decodeWord_encode_of_row (.bltu rs1 rs2 offset) (beq_iff_eq.2 h) nofun⟩,
    ⟨execBranch_of_iff hx (fun a b => !ltUnsigned a b) (not_ltUnsigned_iff _ _) offset,
      fun h => decodeWord_encode_of_row (.bgeu rs1 rs2 offset) (beq_iff_eq.2 h) nofun⟩⟩

/-- Settles O16: each meaning is the jump template, and each word the encoder's. -/
theorem jumpResults : Obligations.JumpResults := by
  intro s v rd rs1 offset imm hx
  exact ⟨⟨execJump_instr hx rd _, fun h => decodeWord_encode_of_row (.jal rd offset) (beq_iff_eq.2 h) nofun⟩,
    ⟨execJump_instr hx rd _, decodeWord_encode_of_row (.jalr rd rs1 imm) rfl nofun⟩⟩

end Sys2Proof.Machine

namespace Sys2Proof.Machine

/-! ## The no-op classes and illegal instructions (R280 to R285) -/

/-- The meaning of an illegal instruction, whose log entry holds the address and word of latch `X` (R302). -/
theorem execIllegal_instr {s : State} {v : XInstr} (h : s.x = .instr v) (word : Word32) :
    execIllegal word s = .next ((s.logIllegal v.pc v.word).executed v (.noEffect v.pc) (v.pc + 4#64)) :=
  onInstr_instr h _

/-- Settles O17: each meaning is the no-op template, and each word the encoder's, whatever its bits [31:7] hold. -/
theorem noOpClasses : Obligations.NoOpClasses := by
  intro s v rest hx
  exact ⟨⟨execNoOp_instr hx, decodeWord_encode_of_row (.miscMem rest) rfl nofun⟩,
    ⟨execNoOp_instr hx, decodeWord_encode_of_row (.amo rest) rfl nofun⟩,
    ⟨execNoOp_instr hx, decodeWord_encode_of_row (.system rest) rfl nofun⟩,
    ⟨execNoOp_instr hx, decodeWord_encode_of_row .zero rfl nofun⟩⟩

/-- Settles O18: the meaning is the no-op template over the extended log; `dest`, `src1` and `src2` answer `none`. -/
theorem illegalInstruction : Obligations.IllegalInstruction := by
  intro s v word hx
  exact ⟨execIllegal_instr hx word, rfl, rfl, rfl⟩

end Sys2Proof.Machine

namespace Sys2Proof.Machine

/-! ## Halts (R301 to R308) -/

/-- `t` is `s` up to the answers of the backing store and the count of calls (R62). -/
def CallChange (s t : State) : Prop := ∃ latency calls, t = { s with latency := latency, calls := calls }

theorem CallChange.refl (s : State) : CallChange s s := ⟨_, _, rfl⟩

section
variable {s t : State} {op : DataOp} {mout : PAddr → List (Option Byte) → WLatch} {reason : HaltReason}
  {pc va pc' va' : Word}

/-- A page fault leaves the walk's call and nothing else (R84, R86). The slot a walk installs is its superpage's own, so the
test of R88 never fails. -/
theorem translate_faults {side : Side} {mem : Memory} {spent : Bool} {walk : Option (WalkStep × Bool)} :
    (translate side mem spent walk va s = .pageFault t → CallChange s t) ∧
      translate side mem spent walk va s ≠ .slotMismatch t := by
  by_cases hit : s.tlbHits side va
  · rw [translate_hit hit]
    exact ⟨nofun, nofun⟩
  obtain hm | hm | hm | ⟨_, _, latency, hm | ⟨_, hm⟩ | ⟨_, _, hm⟩ | ⟨_, _, hm⟩⟩ :=
    translate_miss side mem spent walk va s hit
  all_goals
    rw [hm]
    refine ⟨?_, nofun⟩
    rintro ⟨⟩
  exact ⟨latency, s.calls + 1, rfl⟩

/-- Past translation an access can only be served, stall or stop. -/
theorem translateAndAccess_halt {walk : Option (WalkStep × Bool)}
    (h : translateAndAccess s op pc va walk mout = .halt t reason pc' va') :
    reason = .pageFault .data ∧ CallChange s t := by
  unfold translateAndAccess at h
  cases ht : translate .data s.pmem false walk va s with
  | hit pa => rw [ht] at h; exact absurd h (DataResult.toMem_ne_halt _ _ _ _ _ _)
  | done u pa => rw [ht] at h; exact absurd h (DataResult.toMem_ne_halt _ _ _ _ _ _)
  | retry u step issued => rw [ht] at h; cases h
  | pageFault u => rw [ht] at h; cases h; exact ⟨rfl, translate_faults.1 ht⟩
  | slotMismatch u => exact absurd ht translate_faults.2
  | stop x => rw [ht] at h; cases h

/-- An access halts for its alignment, before any call, or for its translation (R304, R306). -/
theorem dataAccess_halt (h : dataAccess s op pc va mout = .halt t reason pc' va') :
    (reason = .misaligned .data ∨ reason = .pageFault .data) ∧ CallChange s t := by
  have translated {walk : Option (WalkStep × Bool)}
      (h : translateAndAccess s op pc va walk mout = .halt t reason pc' va') :
      (reason = .misaligned .data ∨ reason = .pageFault .data) ∧ CallChange s t :=
    (translateAndAccess_halt h).imp_left .inr
  unfold dataAccess at h
  split at h
  · cases h; exact ⟨.inl rfl, .refl s⟩
  · cases hms : s.ms with
    | idle => rw [hms] at h; exact translated h
    | dTlb step issued => rw [hms] at h; exact translated h
    | dDeferred pa => rw [hms] at h; exact absurd h (DataResult.toMem_ne_halt _ _ _ _ _ _)
    | dEvict pa way victimPa issued => rw [hms] at h; exact absurd h (DataResult.toMem_ne_halt _ _ _ _ _ _)
    | dFill pa way issued => rw [hms] at h; exact absurd h (DataResult.toMem_ne_halt _ _ _ _ _ _)
    | dWriteThrough pa issued => rw [hms] at h; exact absurd h (DataResult.toMem_ne_halt _ _ _ _ _ _)

/-- Everything a halt of the memory stage can be (R303, R304): a fault token's, a misalignment or a page fault; and the
state it is raised in is the stage's own but for the call a walk has made. -/
theorem memoryStage_halt (h : memoryStage s = .halt t reason pc va) :
    ((∃ pc f, s.m = .token pc f ∧ reason = f.reason) ∨ reason = .misaligned .data ∨ reason = .pageFault .data) ∧
      CallChange s t := by
  unfold memoryStage at h
  cases hm : s.m with
  | bubble => rw [hm] at h; cases h
  | reg pc rd value => rw [hm] at h; cases h
  | noEffect pc => rw [hm] at h; cases h
  | token pc f => rw [hm] at h; cases h; exact ⟨.inl ⟨pc, f, rfl, rfl⟩, .refl s⟩
  | load pc rd va size signed => rw [hm] at h; exact (dataAccess_halt h).imp_left .inr
  | store pc va size value => rw [hm] at h; exact (dataAccess_halt h).imp_left .inr

/-- The cycle of a halt writes the record into the state the memory stage leaves (R305). -/
theorem step_of_halt (hrun : s.running = true) (h : memoryStage s.writeback = .halt t reason pc va) :
    step s = .next (t.raiseHalt reason pc va) := by
  have hhalt : s.halt = .running := by simpa [State.running] using hrun
  rw [step, cycle, hhalt]
  dsimp only
  rw [h]

/-- A halted machine changes no more (R305). -/
theorem step_of_halted (h : s.halt = .halted reason pc va) : step s = .next s := by
  rw [step, cycle, h]

end

/-- Settles O48: no halt of the memory stage has touched more than the oracle's answers. -/
theorem haltIsPreciseAndFinal : Obligations.HaltIsPreciseAndFinal := by
  refine ⟨fun s s1 reason pc va hrun hm => ?_, fun s reason pc va hhalt => step_of_halted hhalt⟩
  obtain ⟨-, latency, calls, rfl⟩ := memoryStage_halt hm
  exact ⟨latency, calls, step_of_halt hrun hm⟩

end Sys2Proof.Machine

namespace Sys2Proof.Machine

/-! ## The log (R302, R376) -/

/-- The log after the instruction `i`, held in `v`, has run: an illegal one adds its entry (R302). -/
def logAfter (i : Instr) (v : XInstr) (log : List (Word × Word32)) : List (Word × Word32) :=
  match i with
  | .illegal _ => log ++ [(v.pc, v.word)]
  | _ => log

theorem logAfter_ne {i : Instr} {v : XInstr} {log : List (Word × Word32)} (h : logAfter i v log ≠ log) :
    ∃ word, i = .illegal word := by
  unfold logAfter at h
  split at h
  · exact ⟨_, rfl⟩
  · exact absurd rfl h

/-- The log the execute stage leaves. -/
def State.execLog (s : State) : List (Word × Word32) :=
  match s.x with
  | .instr v => logAfter v.op v s.log
  | .bubble => s.log
  | .token _ _ => s.log

/-- Every meaning is one of the instruction in `X`: it logs that as `logAfter` says, and writes `M` without a fault token. -/
theorem exec_eq_onInstr_logAfter (i : Instr) (s : State) :
    ∃ (bp : XInstr → Vector BpEntry 32) (log : XInstr → List (Word × Word32)) (m' : XInstr → MLatch)
      (nextPc : XInstr → Word),
      (exec i s = onInstr s fun v => ({ s with bp := bp v, log := log v } : State).executed v (m' v) (nextPc v)) ∧
        ∀ v, log v = logAfter i v s.log ∧ ∀ pc f, m' v ≠ .token pc f := by
  cases i <;> exact ⟨_, _, _, _, rfl, fun _ => ⟨rfl, nofun⟩⟩

/-- Everything the execute stage can do (R370, R371, R377): pass a bubble or a token to `M`, or run the instruction. -/
theorem executeStage_cases {s t : State} (h : executeStage s = .next t) :
    (s.x = .bubble ∧ t = { s with m := .bubble }) ∨
      (∃ pc f, s.x = .token pc f ∧ t = { s with m := .token pc f }) ∨
      ∃ v bp m' nextPc, s.x = .instr v ∧
        t = ({ s with bp := bp, log := logAfter v.op v s.log } : State).executed v m' nextPc ∧
        ∀ pc f, m' ≠ .token pc f := by
  unfold executeStage at h
  split at h
  · next hx => cases h; exact .inl ⟨hx, rfl⟩
  · next pc f hx => cases h; exact .inr (.inl ⟨pc, f, hx, rfl⟩)
  · next v hx =>
    obtain ⟨bp, log, m', nextPc, he, hv⟩ := exec_eq_onInstr_logAfter v.op s
    obtain ⟨hlog, htoken⟩ := hv v
    cases (he.trans (onInstr_instr hx _)).symm.trans h
    exact .inr (.inr ⟨v, bp v, m' v, nextPc v, hx, by rw [hlog], htoken⟩)

section
variable {s t start : State} {v : XInstr} {mout : WLatch} {spent : Bool}

theorem State.execLog_of_illegal (hx : s.x = .instr v) {word : Word32} (hop : v.op = .illegal word) :
    s.execLog = s.log ++ [(v.pc, v.word)] := by
  rw [State.execLog, hx]
  dsimp only
  rw [hop, logAfter]

theorem State.execLog_ne (h : s.execLog ≠ s.log) : ∃ v word, s.x = .instr v ∧ v.op = .illegal word := by
  unfold State.execLog at h
  split at h
  · next v hx =>
    obtain ⟨word, hop⟩ := logAfter_ne h
    exact ⟨v, word, hx, hop⟩
  · exact absurd rfl h
  · exact absurd rfl h

theorem State.execLog_congr (hx : t.x = s.x) (hlog : t.log = s.log) : t.execLog = s.execLog := by
  rw [State.execLog, State.execLog, hx, hlog]

theorem executeStage_log (h : executeStage s = .next t) : t.log = s.execLog := by
  unfold State.execLog
  obtain ⟨hx, rfl⟩ | ⟨_, _, hx, rfl⟩ | ⟨v, _, _, _, hx, rfl, -⟩ := executeStage_cases h
  · rw [hx]
  · rw [hx]
  · rw [hx, ← State.finish_eq_executed, State.finish_log]

/-- The decode stage changes only `X` and, on a rewind, the fetch address (R355). -/
theorem decodeStage_changes (oldX : XLatch) (mout : WLatch) (s : State) :
    ∃ x pc fs, decodeStage oldX mout s = { s with x := x, pc := pc, fs := fs } := by
  obtain ⟨_, h⟩ | ⟨_, _, _, h⟩ | ⟨_, _, _, _, ⟨_, _, _, _, h⟩ | ⟨_, h⟩⟩ := decodeStage_cases oldX mout s
  all_goals exact ⟨_, _, _, h⟩

/-- Decode and fetch leave the log as the execute stage leaves it (R376). -/
theorem advance_log (h : advance start mout spent s = .next t) : t.log = s.execLog := by
  obtain ⟨s1, s2, hexec, hfetch, rfl⟩ := advance_next h
  rw [← executeStage_log hexec]
  obtain ⟨_, _, _, hdecode⟩ := decodeStage_changes start.x mout s1
  rw [hdecode] at hfetch
  obtain ⟨_, _, _, _, _, _, _, _, _, rfl⟩ := fetchStage_changes hfetch
  rfl

/-- The log after a step: the execute stage's where the memory stage completes, and the old one in every other cycle. -/
theorem step_log (h : step s = .next t) :
    (s.running = true ∧ (∃ s1 mout spent, memoryStage s.writeback = .out s1 mout spent) ∧ t.log = s.execLog) ∨
      ((s.running = true → ∀ s1 mout spent, memoryStage s.writeback ≠ .out s1 mout spent) ∧ t.log = s.log) := by
  have hc := memoryStage_changes s.writeback
  obtain ⟨hstop, rfl⟩ | ⟨hrun, ⟨s1, reason, pc, va, hm, rfl⟩ | ⟨s1, hm, rfl⟩ | ⟨s1, mout, spent, hm, hadv⟩⟩ :=
    step_next h
  case inl => exact .inr ⟨fun hrun => by simp [hstop] at hrun, rfl⟩
  all_goals
    rw [hm] at hc
    obtain ⟨_, _, _, _, _, _, _, _, _, rfl⟩ := hc
  · exact .inr ⟨by simp [hm], s.writeback_log⟩
  · exact .inr ⟨by simp [hm], s.writeback_log⟩
  · exact .inl ⟨hrun, ⟨_, mout, spent, hm⟩,
      (advance_log hadv).trans (State.execLog_congr s.writeback_x s.writeback_log)⟩

end

/-- Settles O51: the log changes only where the execute stage runs, and there by an illegal instruction's entry. -/
theorem logGrowsByIllegal : Obligations.LogGrowsByIllegal := by
  intro s t hstep
  obtain ⟨hrun, hout, hlog⟩ | ⟨hnot, hlog⟩ := step_log hstep
  · refine ⟨fun v word s1 mout spent _ _ hx hop => hlog.trans (State.execLog_of_illegal hx hop), fun hne => ?_⟩
    exact ⟨hrun, hout, State.execLog_ne (hlog ▸ hne)⟩
  · exact ⟨fun v word s1 mout spent hrun hm => absurd hm (hnot hrun s1 mout spent), fun hne => absurd hlog hne⟩

end Sys2Proof.Machine

namespace Sys2Proof.Machine

/-! ## Fault tokens on their way from fetch to the memory stage (R32, R352, R377), and the internal error of R307 -/

section
variable {s t start : State} {pc : Word} {f : FaultInfo} {mout : WLatch} {spent : Bool} {bp : Vector BpEntry 32}
  {mem : Memory}

theorem icacheServe_d_ne_token {pa : PAddr} {data : List (Option Byte)} (h : icacheServe bp pa data s = .next t) :
    t.d ≠ .token pc f := by
  obtain ⟨-, rfl⟩ := icacheServe_next h
  nofun

theorem icacheFill_d_ne_token {pa : PAddr} {way : Nat} {issued : Bool}
    (h : icacheFill bp mem pa way issued s = .next t) : t.d ≠ .token pc f := by
  obtain ⟨_, rfl | hserve⟩ := icacheFill_cases h
  · nofun
  · exact icacheServe_d_ne_token hserve

/-- A translated fetch raises no fault. -/
theorem icacheAccess_d_ne_token {pa : PAddr} (h : icacheAccess bp mem spent pa s = .next t) : t.d ≠ .token pc f := by
  obtain ⟨_, _, hserve⟩ | ⟨_, ⟨_, rfl⟩ | ⟨_, _, _, _, hfill⟩ | ⟨_, _, _, hfill⟩⟩ := icacheAccess_cases h
  · exact icacheServe_d_ne_token hserve
  · nofun
  · exact icacheFill_d_ne_token hfill
  · exact icacheFill_d_ne_token hfill

theorem fetchFault_token {reason : HaltReason} (h : (fetchFault reason s).d = .token pc f) : f.reason = reason := by
  cases h
  rfl

theorem fetchTranslate_token {walk : Option (WalkStep × Bool)} (h : fetchTranslate bp mem spent walk s = .next t)
    (hd : t.d = .token pc f) : f.reason = .pageFault .instr := by
  unfold fetchTranslate at h
  cases ht : translate .instr mem spent walk s.pc s with
  | hit pa => rw [ht] at h; exact absurd hd (icacheAccess_d_ne_token h)
  | done u pa => rw [ht] at h; exact absurd hd (icacheAccess_d_ne_token h)
  | retry u step issued => rw [ht] at h; cases h; cases hd
  | pageFault u => rw [ht] at h; cases h; exact fetchFault_token hd
  | slotMismatch u => exact absurd ht translate_faults.2
  | stop x => rw [ht] at h; cases x <;> cases h

/-- The alignment test comes before any other fault of a fetch (R347). -/
theorem token_of_aligned {r : Result} (hr : r = .next t → t.d = .token pc f → f.reason ≠ .tlbSlotMismatch)
    (h : (if misalignedFetch s.pc then .next (fetchFault (.misaligned .instr) s) else r) = .next t)
    (hd : t.d = .token pc f) : f.reason ≠ .tlbSlotMismatch := by
  split at h
  · cases h; simp [fetchFault_token hd]
  · exact hr h hd

/-- A fetch faults only for its alignment or its translation (R301, R347, R348). -/
theorem fetchStage_token (h : fetchStage bp mem spent s = .next t) (hd : t.d = .token pc f) :
    f.reason ≠ .tlbSlotMismatch := by
  have cached {pa : PAddr} (h : icacheAccess bp mem spent pa s = .next t) (hd : t.d = .token pc f) :
      f.reason ≠ .tlbSlotMismatch := absurd hd (icacheAccess_d_ne_token h)
  have translated {walk : Option (WalkStep × Bool)} (h : fetchTranslate bp mem spent walk s = .next t)
      (hd : t.d = .token pc f) : f.reason ≠ .tlbSlotMismatch := by simp [fetchTranslate_token h hd]
  unfold fetchStage at h
  cases hf : s.fs with
  | faulted => rw [hf] at h; cases h; cases hd
  | iDeferred pa => rw [hf] at h; exact token_of_aligned cached h hd
  | iFill pa way issued => rw [hf] at h; exact token_of_aligned cached h hd
  | fresh => rw [hf] at h; exact token_of_aligned translated h hd
  | iTlb step issued => rw [hf] at h; exact token_of_aligned translated h hd

/-- A fault token reaches `X` only from `D` (R352). -/
theorem decodeStage_token {oldX : XLatch} (h : (decodeStage oldX mout s).x = .token pc f) : s.d = .token pc f := by
  obtain ⟨_, he⟩ | ⟨_, _, hd, he⟩ | ⟨_, _, _, _, ⟨_, _, _, _, he⟩ | ⟨_, he⟩⟩ := decodeStage_cases oldX mout s
  all_goals
    rw [he] at h
    cases h
  exact hd

/-- A fault token reaches `M` only from `X` (R377), and one in `D` stays or is killed there (R374). -/
theorem executeStage_token (h : executeStage s = .next t) :
    (t.m = .token pc f → s.x = .token pc f) ∧ (t.d = .token pc f → s.d = .token pc f) := by
  obtain ⟨-, rfl⟩ | ⟨_, _, hx, rfl⟩ | ⟨v, bp, m', nextPc, -, rfl, hne⟩ := executeStage_cases h
  · exact ⟨nofun, id⟩
  · exact ⟨fun hm => hx.trans (by cases hm; rfl), id⟩
  · refine ⟨fun hm => absurd ((State.executed_m _ _ _ _).symm.trans hm) (hne pc f), fun hd => ?_⟩
    obtain ⟨-, he⟩ | ⟨-, he⟩ := State.executed_cases { s with bp := bp, log := logAfter v.op v s.log } v m' nextPc
    · rw [he] at hd; exact hd
    · rw [he] at hd; cases hd

/-- Execute and decode move tokens one latch on, and fetch makes only those of R301. -/
theorem advance_noMismatch (hs : s.noMismatch) (h : advance start mout spent s = .next t) : t.noMismatch := by
  obtain ⟨hd, hx, -, hhalt⟩ := hs
  obtain ⟨s1, s2, hexec, hfetch, rfl⟩ := advance_next h
  have hhalt1 : s1.halt = s.halt := by
    obtain ⟨_, _, _, _, _, _, rfl⟩ := executeStage_changes hexec
    rfl
  have hdecode : (decodeStage start.x mout s1).m = s1.m ∧ (decodeStage start.x mout s1).halt = s1.halt := by
    obtain ⟨_, _, _, h⟩ := decodeStage_changes start.x mout s1
    rw [h]
    exact ⟨rfl, rfl⟩
  have hkept : s2.x = (decodeStage start.x mout s1).x ∧ s2.m = s1.m ∧ s2.halt = s.halt := by
    rw [← hhalt1, ← hdecode.1, ← hdecode.2]
    obtain ⟨_, _, _, _, _, _, _, _, _, rfl⟩ := fetchStage_changes hfetch
    exact ⟨rfl, rfl, rfl⟩
  obtain ⟨hx2, hm2, hhalt2⟩ := hkept
  refine ⟨fun pc f h2 => fetchStage_token hfetch h2, fun pc f h2 => ?_, fun pc f h2 => ?_, fun pc va h2 => ?_⟩
  · exact hd pc f ((executeStage_token hexec).2 (decodeStage_token (hx2.symm.trans h2)))
  · exact hx pc f ((executeStage_token hexec).1 (hm2.symm.trans h2))
  · exact hhalt pc va (hhalt2.symm.trans h2)

theorem State.noMismatch_congr (hs : s.noMismatch) (hd : t.d = s.d) (hx : t.x = s.x) (hm : t.m = s.m)
    (hhalt : ∀ pc va, t.halt ≠ .halted .tlbSlotMismatch pc va) : t.noMismatch := by
  obtain ⟨sd, sx, sm, -⟩ := hs
  exact ⟨hd ▸ sd, hx ▸ sx, hm ▸ sm, hhalt⟩

theorem DataChange.noMismatch (h : DataChange s t) (hs : s.noMismatch) : t.noMismatch := by
  obtain ⟨_, _, _, _, _, _, _, _, _, rfl⟩ := h
  exact hs

/-- A halt's reason comes from the token in `M`, from the alignment test or from a page fault, so no step makes a trace of
the internal error. -/
theorem step_noMismatch (hs : s.noMismatch) (h : step s = .next t) : t.noMismatch := by
  have hwb : s.writeback.noMismatch := by
    have ⟨_, _, _, hhalt⟩ := hs
    exact State.noMismatch_congr hs s.writeback_d s.writeback_x s.writeback_m (by simpa using hhalt)
  have hc := memoryStage_changes s.writeback
  obtain ⟨-, rfl⟩ | ⟨-, ⟨s1, reason, pc, va, hm, rfl⟩ | ⟨s1, hm, rfl⟩ | ⟨s1, mout, spent, hm, hadv⟩⟩ := step_next h
  case inl => exact hs
  all_goals
    rw [hm] at hc
    have hs1 : s1.noMismatch := DataChange.noMismatch hc hwb
  · have hne : reason ≠ .tlbSlotMismatch := by
      obtain ⟨⟨pc', f, htoken, rfl⟩ | rfl | rfl, -⟩ := memoryStage_halt hm
      · obtain ⟨-, -, hwbm, -⟩ := hwb
        exact hwbm pc' f htoken
      · nofun
      · nofun
    refine State.noMismatch_congr hs1 rfl rfl rfl fun pc' va' hhalt => ?_
    cases hhalt
    exact hne rfl
  · exact hs1
  · exact advance_noMismatch hs1 hadv

end

/-- Settles O37: a walk installs at its superpage's own index; without the outcome no token and no halt carries it. -/
theorem slotMismatchUnreachable : Obligations.SlotMismatchUnreachable :=
  ⟨fun _ _ _ _ _ _ _ => translate_faults.2, fun _ _ => step_noMismatch⟩

end Sys2Proof.Machine

namespace Sys2Proof.Machine

/-! ## A cycle that completes leaves `MS` idle (R384) -/

/-- A served access leaves `Idle`. -/
def DataResult.LeavesIdle : DataResult → Prop
  | .served t _ _ => t.ms = .idle
  | .stall _ => True
  | .stop _ => True

/-- A cycle of the memory stage that completes leaves `Idle`. -/
def MemResult.LeavesIdle : MemResult → Prop
  | .out t _ _ => t.ms = .idle
  | .stall _ => True
  | .halt _ _ _ _ => True
  | .stop _ => True

section
variable (s : State) (op : DataOp) (pa : PAddr) (way : Nat) (size : AccessSize) (value : Word) (issued spent : Bool)

theorem writeThroughStep_leavesIdle : (writeThroughStep s pa way size value issued spent).LeavesIdle := by
  unfold writeThroughStep
  cases spent with
  | true => trivial
  | false =>
    rw [if_neg Bool.false_ne_true]
    cases physWrite s issued pa.toNat (knownBytes size value) with
    | stop f => trivial
    | pending s' => trivial
    | done s' bytes => rfl

theorem serveHit_leavesIdle : (serveHit s op pa way spent).LeavesIdle := by
  cases op with
  | load size => rfl
  | store size value =>
    unfold serveHit
    cases s.writeBack with
    | true => rfl
    | false => exact writeThroughStep_leavesIdle _ _ _ _ _ _ _

theorem fillStep_leavesIdle : (fillStep s op pa way issued).LeavesIdle := by
  obtain ⟨value, rfl, h⟩ | ⟨-, h⟩ := fillStep_cases s op pa way issued
  · rw [h]
    exact serveHit_leavesIdle _ _ _ _ _
  · rw [h]
    cases physRead s s.pmem issued (lineBase Config.dline pa) Config.dline with
    | stop f => trivial
    | pending s' => trivial
    | done s' bytes => exact serveHit_leavesIdle _ _ _ _ _

theorem evictStep_leavesIdle (victimPa : PAddr) : (evictStep s op pa way victimPa issued).LeavesIdle := by
  unfold evictStep
  cases physWrite s issued victimPa.toNat (s.dLine pa way).data with
  | stop f => trivial
  | pending s' => trivial
  | done s' bytes =>
    dsimp only
    split
    · exact serveHit_leavesIdle _ _ _ _ _
    · trivial

theorem startMiss_leavesIdle : (startMiss s op pa).LeavesIdle := by
  obtain ⟨way, s', -, ⟨-, h⟩ | ⟨-, h⟩⟩ := startMiss_cases s op pa
  · rw [h]
    exact evictStep_leavesIdle _ _ _ _ _ _
  · rw [h]
    exact fillStep_leavesIdle _ _ _ _ _

theorem dcacheAccess_leavesIdle : (dcacheAccess s op pa spent).LeavesIdle := by
  unfold dcacheAccess
  cases hitWay (s.dcache.ways (s.dIndex pa)) (s.dTag pa) with
  | some way => exact serveHit_leavesIdle _ _ _ _ _
  | none =>
    cases spent with
    | true => trivial
    | false =>
      cases s.ms with
      | dEvict q way victimPa issued => exact evictStep_leavesIdle _ _ _ _ _ _
      | dFill q way issued => exact fillStep_leavesIdle _ _ _ _ _
      | idle => exact startMiss_leavesIdle _ _ _
      | dTlb step issued => exact startMiss_leavesIdle _ _ _
      | dDeferred q => exact startMiss_leavesIdle _ _ _
      | dWriteThrough q issued => exact startMiss_leavesIdle _ _ _

theorem cachedAccess_leavesIdle (mout : List (Option Byte) → WLatch) :
    ((dcacheAccess s op pa spent).toMem mout).LeavesIdle := by
  have h := dcacheAccess_leavesIdle s op pa spent
  cases hr : dcacheAccess s op pa spent with
  | served t bytes spent' => rw [hr] at h; exact h
  | stall t => trivial
  | stop x => trivial

theorem translateAndAccess_leavesIdle (pc va : Word) (walk : Option (WalkStep × Bool))
    (mout : PAddr → List (Option Byte) → WLatch) : (translateAndAccess s op pc va walk mout).LeavesIdle := by
  unfold translateAndAccess
  cases translate .data s.pmem false walk va s with
  | hit pa => exact cachedAccess_leavesIdle _ _ _ _ _
  | done t pa => exact cachedAccess_leavesIdle _ _ _ _ _
  | retry t step issued => trivial
  | pageFault t => trivial
  | slotMismatch t => trivial
  | stop x => trivial

theorem dataAccess_leavesIdle (pc va : Word) (mout : PAddr → List (Option Byte) → WLatch) :
    (dataAccess s op pc va mout).LeavesIdle := by
  unfold dataAccess
  cases misalignedData va op.size with
  | true => trivial
  | false =>
    cases s.ms with
    | idle => exact translateAndAccess_leavesIdle _ _ _ _ _ _
    | dTlb step issued => exact translateAndAccess_leavesIdle _ _ _ _ _ _
    | dDeferred pa => exact cachedAccess_leavesIdle _ _ _ _ _
    | dEvict pa way victimPa issued => exact cachedAccess_leavesIdle _ _ _ _ _
    | dFill pa way issued => exact cachedAccess_leavesIdle _ _ _ _ _
    | dWriteThrough pa issued => exact cachedAccess_leavesIdle _ _ _ _ _

theorem memoryStage_leavesIdle : (memoryStage s).LeavesIdle := by
  unfold memoryStage
  cases s.m with
  | bubble => rfl
  | reg pc rd value => rfl
  | noEffect pc => rfl
  | token pc fault => trivial
  | load pc rd va size signed => exact dataAccess_leavesIdle _ _ _ _ _
  | store pc va size value => exact dataAccess_leavesIdle _ _ _ _ _

end

/-! ## What a stall leaves in `MS` (R90, R100, R104, R108) -/

section
variable {s t : State} {op : DataOp} {va : Word} {pa : PAddr} {way : Nat} {rest : List Bool}

/-- A walk that goes on keeps its step (R90, R91). -/
theorem dataAccess_walks (hal : misalignedData va op.size = false) {walk : Option (WalkStep × Bool)}
    (hwalk : s.dataWalk walk) {step : WalkStep} {issued : Bool}
    (ht : translate .data s.pmem false walk va s = .retry t step issued) (pc : Word)
    (mout : PAddr → List (Option Byte) → WLatch) :
    dataAccess s op pc va mout = .stall { t with ms := .dTlb step issued } := by
  unfold dataAccess
  rw [hal, if_neg Bool.false_ne_true]
  obtain ⟨hms, rfl⟩ | ⟨_, _, hms, rfl⟩ := hwalk
  · simp [hms, translateAndAccess, ht]
  · simp [hms, translateAndAccess, ht]

/-- A miss that finds the call spent waits (R100 step 3). -/
theorem dcacheAccess_defers (h : s.dMisses pa) (op : DataOp) :
    dcacheAccess s op pa true = .stall { s with ms := .dDeferred pa } := by
  unfold dcacheAccess
  rw [show hitWay _ _ = none from h]
  rfl

/-- A write-back that is not answered goes on (R99). -/
theorem evictStep_pending (hl : s.latency = false :: rest) {victimPa : PAddr}
    (hin : victimPa.toNat + (s.dLine pa way).data.length ≤ s.params.pmemSize) (op : DataOp) (issued : Bool) :
    evictStep s op pa way victimPa issued = .stall { s.answered rest with ms := .dEvict pa way victimPa true } := by
  rw [evictStep, physWrite_answered hl hin]
  rfl

/-- A write-back that is answered leaves the victim invalid and clean; its way is filled from the next cycle on, but for an
8-byte store (R99, R108). -/
theorem evictStep_answered (hop : ∀ value, op ≠ .store .b8 value) (hl : s.latency = true :: rest) {victimPa : PAddr}
    (hin : victimPa.toNat + (s.dLine pa way).data.length ≤ s.params.pmemSize) (issued : Bool) :
    evictStep s op pa way victimPa issued =
      .stall
        { s.answered rest with
          ms := .dFill pa way false
          pmem := s.pmem.writeBytes victimPa.toNat (s.dLine pa way).data
          dcache := s.dcache.setLine (s.dIndex pa) way { s.dLine pa way with valid := false, dirty := false } } := by
  rw [evictStep, physWrite_answered hl hin, if_pos rfl]
  dsimp only
  split
  · exact absurd rfl (hop _)
  · rfl

/-- A read that is not answered goes on (R101). -/
theorem fillStep_pending (hop : ∀ value, op ≠ .store .b8 value) (hl : s.latency = false :: rest)
    (hin : lineBase Config.dline pa + Config.dline ≤ s.params.pmemSize) (way : Nat) (issued : Bool) :
    fillStep s op pa way issued = .stall { s.answered rest with ms := .dFill pa way true } := by
  obtain ⟨value, rfl, -⟩ | ⟨-, hf⟩ := fillStep_cases s op pa way issued
  · exact absurd rfl (hop value)
  · rw [hf, physRead_answered hl hin]
    rfl

/-- A write-through store whose fill has spent the call waits for its write (R104). -/
theorem serveHit_writeThrough_of_spent (h : s.writeBack = false) (size : AccessSize) (value : Word) (pa : PAddr) (way : Nat) :
    serveHit s (.store size value) pa way true = .stall { s with ms := .dWriteThrough pa false } := by
  rw [serveHit, h]
  rfl

/-- The stage performs the access in `M`, which is a store exactly when `M` holds that store. -/
theorem memoryStage_asked {pc value : Word} {rd : Option Reg} {size : AccessSize} {signed : Bool}
    (hm : s.m = .load pc rd va size signed ∨ s.m = .store pc va size value) :
    ∃ op : DataOp, op.size = size ∧ (∃ mout, memoryStage s = dataAccess s op pc va mout) ∧
      (∀ size' value', op = .store size' value' ↔ s.m = .store pc va size' value') := by
  obtain hm | hm := hm
  · exact ⟨.load size, rfl, memoryStage_eq_dataAccess (value := value) (.inl ⟨hm, rfl⟩), by simp [hm]⟩
  · exact ⟨.store size value, rfl, memoryStage_eq_dataAccess (rd := rd) (signed := signed) (.inr ⟨hm, rfl⟩), by simp [hm]⟩

end

/-! ## The cycle of a stall (R392) -/

/-- The cycle of a stall is the memory stage's own changes and a bubble in `W` (R392). -/
theorem step_of_stall {s t : State} (hrun : s.running = true) (h : memoryStage s.writeback = .stall t) :
    step s = .next { t with w := .bubble } := by
  have hhalt : s.halt = .running := by simpa [State.running] using hrun
  rw [step, cycle, hhalt]
  dsimp only
  rw [h]

/-- Settles O49: a stall keeps all but the data side; what it leaves in `MS` is said call by call. -/
theorem stallFreezes : Obligations.StallFreezes := by
  refine ⟨fun s s1 hrun hm => ?_, fun s t mout spent hm => ?_, ?_⟩
  · refine ⟨_, step_of_stall hrun hm, ?_⟩
    have hc := memoryStage_changes s.writeback
    rw [hm] at hc
    obtain ⟨_, _, _, _, _, _, _, _, _, rfl⟩ := hc
    simp
  · have hidle := memoryStage_leavesIdle s
    rw [hm] at hidle
    exact hidle
  intro s t pc va rd size signed value pa way rest hm hal doubleStore
  obtain ⟨op, hsize, ⟨mout, hstage⟩, hstore⟩ := memoryStage_asked hm
  replace hal : misalignedData va op.size = false := by
    rw [← misalignedData_iff, ← hsize] at hal
    simpa using hal
  have hnot8 (hne : ¬doubleStore) (value' : Word) : op ≠ .store .b8 value' := by
    intro h8
    have hm8 := (hstore _ _).mp h8
    obtain hm | hm := hm
    · cases hm.symm.trans hm8
    · cases hm.symm.trans hm8
      exact hne hm8
  rw [hstage]
  refine ⟨fun walk step issued hwalk ht => dataAccess_walks hal hwalk ht pc mout, fun hreach hmiss => ?_,
    fun victimPa hevict hin => ?_, fun hfill hne hin hl => ?_, fun hfill hm hpolicy => ?_⟩
  · rw [dataAccess_of_reachesCache hreach op hal, dcacheAccess_defers hmiss]
    rfl
  · obtain ⟨issued, haccess⟩ := dataAccess_of_writesBack hevict op hal pc mout
    obtain ⟨victims, draws, rfl⟩ := eq_of_fillsWay_or_writesBack (.inr ⟨victimPa, hevict⟩)
    rw [haccess]
    refine ⟨fun hl => ?_, fun hl hne => ?_⟩
    · rw [evictStep_pending (by exact hl) (by exact hin)]
      rfl
    · rw [evictStep_answered (hnot8 hne) (by exact hl) (by exact hin)]
      rfl
  · obtain ⟨issued, haccess⟩ := dataAccess_of_fillsWay hfill op hal pc mout
    obtain ⟨victims, draws, rfl⟩ := eq_of_fillsWay_or_writesBack (.inl hfill)
    rw [haccess, fillStep_pending (hnot8 hne) (by exact hl) (by exact hin)]
    rfl
  · have hwb : t.writeBack = false := by
      have hparams : t.params = s.params := State.findsLine.params (.inr (.inl ⟨hfill, rfl⟩))
      simp [State.writeBack, hparams, hpolicy]
    have hop := (hstore _ _).mpr hm
    have hne8 (value' : Word) : op ≠ .store .b8 value' := by
      obtain ⟨_, _, _, hne, -⟩ := hfill
      exact fun h8 => hne pc value' ((hstore _ _).mp h8)
    refine ⟨false, ?_⟩
    rw [dataAccess_of_fillCompletes hfill hal hne8, hop, serveHit_writeThrough_of_spent hwb]
    rfl

end Sys2Proof.Machine

namespace Sys2Proof.Machine

/-! ## Operands as decode resolves them (R354 to R360) -/

/-- A retiring instruction with a destination sends its value there (R35). -/
theorem WLatch.sends_retire_some (pc : Word) (q r : Reg) (v : Word) :
    (WLatch.retire pc (some q) v).sends r = if q = r then some v else none := rfl

theorem WLatch.sends_of_noDest {w : WLatch} (h : ∀ pc q v, w = .retire pc (some q) v → False) (r : Reg) :
    w.sends r = none := by
  unfold WLatch.sends
  split
  · next pc q v => exact (h pc q v rfl).elim
  · rfl
  · rfl

theorem readsZero_iff (p : Params) (r : Reg) :
    readsZero p r = true ↔ p.x0Hardwired = true ∧ p.x0ForwardQuirk = false ∧ r = 0#5 := by
  simp [readsZero, and_assoc]

theorem State.readReg_eq_ite (s : State) (r : Reg) :
    s.readReg r = if s.params.x0Hardwired = true ∧ r = 0#5 then 0#64 else s.regs[r.toNat] := by
  simp [State.readReg]

/-- The memory stage's output comes first, then `W`, then the register file (R356). -/
theorem resolveOperand_eq_sends (s : State) (mout : WLatch) (r : Reg) :
    resolveOperand s mout r =
      if readsZero s.params r = true then 0#64 else ((mout.sends r).or (s.w.sends r)).getD (s.readReg r) := by
  unfold resolveOperand
  split
  · rfl
  split
  · next hw =>
    rw [hw, WLatch.sends_retire_some, WLatch.sends_retire_some]
    split_ifs <;> rfl
  · next hw =>
    rw [WLatch.sends_retire_some, WLatch.sends_of_noDest hw]
    split_ifs <;> rfl
  · next hm hw =>
    rw [hw, WLatch.sends_retire_some, WLatch.sends_of_noDest hm]
    split_ifs <;> rfl
  · next hm hw _ =>
    rw [WLatch.sends_of_noDest hm, WLatch.sends_of_noDest hw]
    rfl

/-- The value an operand register resolves to, in the rules' own terms (R356, R360). -/
theorem resolveOperand_eq_ite (s : State) (mout : WLatch) (r : Reg) :
    resolveOperand s mout r =
      if s.params.x0Hardwired = true ∧ s.params.x0ForwardQuirk = false ∧ r = 0#5 then 0#64
      else ((mout.sends r).or (s.w.sends r)).getD
        (if s.params.x0Hardwired = true ∧ r = 0#5 then 0#64 else s.regs[r.toNat]) := by
  rw [resolveOperand_eq_sends, State.readReg_eq_ite]
  simp only [readsZero_iff]

section
variable {s : State} {oldX : XLatch} {mout : WLatch} {u : XInstr} {q r : Reg}

/-- A register that is not the destination of the instruction in execute is resolved (R354, R356). -/
theorem readOperand_of_free (h : ∀ u, oldX = .instr u → u.rd ≠ some r) :
    readOperand s oldX mout r = some (resolveOperand s mout r) := by
  unfold readOperand
  cases oldX with
  | bubble => rfl
  | token pc fault => rfl
  | instr u => exact if_neg (h u rfl)

/-- The destination of the instruction in execute has no value yet when nothing is forwarded from there (R354, R359). -/
theorem readOperand_of_hazard (hrd : u.rd = some r)
    (h : s.params.exForward = false ∨ ∀ pc rd value, s.m ≠ .reg pc rd value) :
    readOperand s (.instr u) mout r = none := by
  unfold readOperand
  dsimp only
  rw [if_pos hrd]
  split
  · next hex hm =>
    obtain h | h := h
    · simp [h] at hex
    · exact absurd hm (h _ _ _)
  · rfl

/-- Under `EX_FORWARD` the register write of the execute stage is the value of its destination (R359). -/
theorem readOperand_of_forward (hrd : u.rd = some r) (hex : s.params.exForward = true) {pc value : Word} {rd : Option Reg}
    (hm : s.m = .reg pc rd value) (mout : WLatch) (q : Reg) :
    readOperand s (.instr u) mout q =
      some (if readsZero s.params q = true then 0#64 else if q = r then value else resolveOperand s mout q) := by
  by_cases hq : q = r
  · subst hq
    unfold readOperand
    dsimp only
    rw [if_pos hrd, hex, hm, if_pos rfl]
  · have hfree (u' : XInstr) (hu : XLatch.instr u = .instr u') : u'.rd ≠ some q := by
      cases hu
      exact fun hrd' => hq (Option.some.inj (hrd'.symm.trans hrd))
    rw [readOperand_of_free hfree, if_neg hq, resolveOperand_eq_sends]
    split <;> rfl

/-- A source that the format has reads as its register does (R145). -/
theorem readSource_eq_operand {value : Reg → Word} {src : Option Reg}
    (h : ∀ r, src = some r → readOperand s oldX mout r = some (value r)) :
    readSource s oldX mout src = some (scalarOperand value src) := by
  cases src with
  | none => rfl
  | some r => exact h r rfl

/-! ## What decode writes into `X` (R352 to R358) -/

/-- A fault token passes (R352). -/
theorem decodeStage_of_token {pc : Word} {fault : FaultInfo} (hd : s.d = .token pc fault) (oldX : XLatch) (mout : WLatch) :
    decodeStage oldX mout s = { s with x := .token pc fault } := by
  rw [decodeStage, hd]

section
variable {pc predPc : Word} {word : Word32} (hd : s.d = .instr pc word predPc)
include hd

/-- With both sources resolved the instruction is decoded (R358). -/
theorem decodeStage_of_resolved {a b : Word} (ha : readSource s oldX mout (src1 (decodeWord word)) = some a)
    (hb : readSource s oldX mout (src2 (decodeWord word)) = some b) :
    decodeStage oldX mout s = { s with x := .instr (decodedInstr pc word predPc a b) } := by
  rw [decodeStage, hd]
  dsimp only
  rw [ha, hb]
  rfl

/-- With a source that waits the fetch rewinds (R355). -/
theorem decodeStage_of_waiting (h : readSource s oldX mout (src1 (decodeWord word)) = none ∨
      readSource s oldX mout (src2 (decodeWord word)) = none) :
    decodeStage oldX mout s = { s with x := .bubble, pc := pc, fs := .fresh } := by
  rw [decodeStage, hd]
  dsimp only
  split
  · next ha hb => simp [ha, hb] at h
  · rfl

end

end

/-- Settles O22: no source waits, and each resolves as R356 says. -/
theorem decodeResolvesOperands : Obligations.DecodeResolvesOperands := by
  intro s oldX mout pc word predPc hd hfree value
  have hvalue (r : Reg) : resolveOperand s mout r = value r := resolveOperand_eq_ite s mout r
  refine ⟨immValue (decodeWord word), fun v => immValue_of_immediate, decodeStage_of_resolved hd ?_ ?_⟩
  · refine readSource_eq_operand fun r hr => ?_
    rw [← hvalue, readOperand_of_free fun u hu hrd => (hfree u r hu hrd).1 hr]
  · refine readSource_eq_operand fun r hr => ?_
    rw [← hvalue, readOperand_of_free fun u hu hrd => (hfree u r hu hrd).2 hr]

/-- Settles O23: the source that waits rewinds; one forwarded has the value in `M`, the other resolves as before. -/
theorem hazardTest : Obligations.HazardTest := by
  intro s u mout pc word predPc r hd hrd hsrc
  refine ⟨fun hwait => decodeStage_of_waiting hd ?_, fun pc' rd' value hex hm => ?_⟩
  · have hnone := readOperand_of_hazard (mout := mout) hrd hwait
    obtain hsrc | hsrc := hsrc
    · exact .inl (by rw [hsrc]; exact hnone)
    · exact .inr (by rw [hsrc]; exact hnone)
  · intro zero resolved
    have hread (q : Reg) : readOperand s (.instr u) mout q = some (resolved q) := by
      rw [readOperand_of_forward hrd hex hm, resolveOperand_eq_sends, State.readReg_eq_ite]
      by_cases hzero : readsZero s.params q = true
      · rw [if_pos hzero]
        exact congrArg some (if_pos ((readsZero_iff _ _).mp hzero)).symm
      · rw [if_neg hzero, if_neg hzero]
        exact congrArg some (if_neg (mt (readsZero_iff _ _).mpr hzero)).symm
    exact ⟨immValue (decodeWord word), fun v => immValue_of_immediate,
      decodeStage_of_resolved hd (readSource_eq_operand fun q _ => hread q) (readSource_eq_operand fun q _ => hread q)⟩

end Sys2Proof.Machine

namespace Sys2Proof.Machine

/-! ## Fault tokens in `X` and `M` (R377, R386) -/

theorem executeStage_of_token {s : State} {pc : Word} {fault : FaultInfo} (hx : s.x = .token pc fault) :
    executeStage s = .next { s with m := .token pc fault } := by
  rw [executeStage, hx]

theorem memoryStage_of_token {s : State} {pc : Word} {fault : FaultInfo} (hm : s.m = .token pc fault) :
    memoryStage s = .halt s fault.reason pc pc := by
  rw [memoryStage, hm]

/-- Settles O24: each stage passes the token on, and the last raises its halt. -/
theorem tokensPassAndHalt : Obligations.TokensPassAndHalt := fun _ oldX mout _ _ =>
  ⟨fun hd => decodeStage_of_token hd oldX mout, executeStage_of_token, memoryStage_of_token⟩

end Sys2Proof.Machine

namespace Sys2Proof.Machine

/-! ## A fetch that has its line (R344, R345) -/

section
variable {bp : Vector BpEntry 32} {mem : Memory} {spent : Bool} {s : State} {pa : PAddr} {way : Nat}

theorem misalignedFetch_iff (pc : Word) : misalignedFetch pc = true ↔ pc.extractLsb' 0 2 ≠ 0#2 := by
  rw [misalignedFetch, BitVec.setWidth_eq_extractLsb' (by decide), bne_iff_ne]

/-- A word with a stored byte is refused (R72). -/
theorem icacheServe_stored (h : storedTouches s.stored pa.toNat 4 = true) (bp : Vector BpEntry 32)
    (data : List (Option Byte)) : icacheServe bp pa data s = .refused (.storedByte pa.toNat) := by
  rw [icacheServe, if_pos h]

/-- Any other word of the line is delivered with its predicted next PC (R344, R345). -/
theorem icacheServe_clean (h : storedTouches s.stored pa.toNat 4 = false) (bp : Vector BpEntry 32)
    (data : List (Option Byte)) :
    icacheServe bp pa data s =
      .next
        { s with
          d := .instr s.pc
            (BitVec.ofNat 32 (leValue (resolveBytes pa.toNat (slice data (lineOffset Config.iline pa) 4))))
            (predict s.params bp s.pc)
          pc := predict s.params bp s.pc
          fs := .fresh } := by
  rw [icacheServe, h, if_neg Bool.false_ne_true]

/-- A hit in the instruction cache serves the line it holds (R338). -/
theorem icacheAccess_of_hitWay (h : hitWay (s.icache.ways (s.iIndex pa)) (s.iTag pa) = some way) (bp : Vector BpEntry 32)
    (mem : Memory) (spent : Bool) :
    icacheAccess bp mem spent pa s = icacheServe bp pa (s.icache.line Config.iline (s.iIndex pa) way).data s := by
  rw [icacheAccess, h]

/-- A hit in the I-TLB reaches the instruction cache in the same cycle, without a call (R82, R338). -/
theorem fetchStage_of_tlbGives (haligned : misalignedFetch s.pc = false)
    (hfs : s.fs = .fresh ∨ ∃ step issued, s.fs = .iTlb step issued) (hgives : s.tlbGives .instr s.pc pa) :
    fetchStage bp mem spent s = icacheAccess bp mem spent pa s := by
  have translated (walk : Option (WalkStep × Bool)) :
      fetchTranslate bp mem spent walk s = icacheAccess bp mem spent pa s := by
    rw [fetchTranslate, translate_of_tlbGives hgives]
  unfold fetchStage
  obtain hfs | ⟨step, issued, hfs⟩ := hfs
  · simp only [hfs, haligned, translated, Bool.false_eq_true, if_false]
  · simp only [hfs, haligned, translated, Bool.false_eq_true, if_false]

end

/-- Settles O30: the cache serves the word of its line, and two hits lead a fetch there. -/
theorem fetchServesWord : Obligations.FetchServesWord := by
  intro bp mem spent s pa data word
  refine ⟨fun h => icacheServe_stored h bp data, fun h => icacheServe_clean h bp data, ?_⟩
  rintro way haligned hfs hvalid htag hpa hway rfl
  have haligned : misalignedFetch s.pc = false := by
    rw [← Bool.not_eq_true, misalignedFetch_iff]
    exact not_not_intro haligned
  rw [fetchStage_of_tlbGives haligned hfs ⟨hvalid, htag, hpa⟩, icacheAccess_of_hitWay hway]

end Sys2Proof.Machine

namespace Sys2Proof.Machine

/-! ## Reset (R430) -/

/-- Every row of a cache after reset is invalid and clean, and has the line size (R39). -/
theorem Cache.empty_rows (lineSize rows ways : Nat) : ∀ set ∈ Cache.empty lineSize rows ways,
    set.length = ways ∧ ∀ l ∈ set, l.valid = false ∧ l.dirty = false ∧ l.data.length = lineSize := by
  intro set hset
  obtain rfl := List.eq_of_mem_replicate hset
  refine ⟨List.length_replicate, fun l hl => ?_⟩
  obtain rfl := List.eq_of_mem_replicate hl
  exact ⟨rfl, rfl, List.length_replicate⟩

theorem Tlb.empty_slot (i : BitVec 3) : Tlb.empty.slots[i.toNat] = TlbSlot.empty := Vector.getElem_replicate _

/-- Settles O53: the launch state is the reset table. -/
theorem resetState : Obligations.ResetState := by
  intro params resetPc ptbr regs mem
  refine ⟨rfl, rfl, rfl, rfl, rfl, rfl, rfl, rfl, rfl, rfl, rfl, rfl, rfl, rfl, fun i => ?_, fun i => ?_,
    List.length_replicate, List.length_replicate, Cache.empty_rows _ _ _, Cache.empty_rows _ _ _⟩
  · have hslot := congrArg TlbSlot.valid (Tlb.empty_slot i)
    exact ⟨hslot, hslot⟩
  · exact Vector.getElem_replicate _

end Sys2Proof.Machine

namespace Sys2Proof.Machine

/-! ## The word from its fields (R122, R130 to R135) -/

section
variable (w : Word32)

theorem encR_fields :
    encR (fieldFunct7 w) (fieldRs2 w) (fieldRs1 w) (fieldFunct3 w) (fieldRd w) (fieldOpcode w) = w := by
  simp only [encR, fieldFunct7, fieldRs2, fieldRs1, fieldFunct3, fieldRd, fieldOpcode, Reg,
    BitVec.extractLsb'_append_extractLsb'_eq_extractLsb', BitVec.extractLsb'_eq_self]

theorem encI_fields : encI (fieldImmI w) (fieldRs1 w) (fieldFunct3 w) (fieldRd w) (fieldOpcode w) = w := by
  simp only [encI, fieldImmI, fieldRs1, fieldFunct3, fieldRd, fieldOpcode, Reg,
    BitVec.extractLsb'_append_extractLsb'_eq_extractLsb', BitVec.extractLsb'_eq_self]

theorem encU_fields : encU (fieldImmU w) (fieldRd w) (fieldOpcode w) = w := by
  simp only [encU, fieldImmU, fieldRd, fieldOpcode, Reg,
    BitVec.extractLsb'_append_extractLsb'_eq_extractLsb', BitVec.extractLsb'_eq_self]

theorem rest_append_opcode : fieldRest w ++ fieldOpcode w = w := by
  simp only [fieldRest, fieldOpcode,
    BitVec.extractLsb'_append_extractLsb'_eq_extractLsb', BitVec.extractLsb'_eq_self]

theorem funct6_append_shamt6 : fieldFunct6 w ++ fieldShamt6 w = fieldImmI w := by
  simp only [fieldFunct6, fieldShamt6, fieldImmI, BitVec.extractLsb'_append_extractLsb'_eq_extractLsb']

theorem funct7_append_shamt5 : fieldFunct7 w ++ fieldShamt5 w = fieldImmI w := by
  simp only [fieldFunct7, fieldShamt5, fieldImmI, BitVec.extractLsb'_append_extractLsb'_eq_extractLsb']

theorem encS_fields : encS (fieldImmS w) (fieldRs2 w) (fieldRs1 w) (fieldFunct3 w) (fieldOpcode w) = w := by
  have hhigh : (fieldImmS w).extractLsb' 5 7 = w.extractLsb' 25 7 := by
    simp [fieldImmS]
  have hlow : (fieldImmS w).extractLsb' 0 5 = w.extractLsb' 7 5 := by
    simp [fieldImmS]
  simp only [encS, hhigh, hlow, fieldRs1, fieldRs2, fieldFunct3, fieldOpcode, Reg,
    BitVec.extractLsb'_append_extractLsb'_eq_extractLsb', BitVec.extractLsb'_eq_self]

end

/-- The parts of a B-offset are found again at their places (R132). -/
theorem extractLsb'_immB (b12 b11 : BitVec 1) (b10 : BitVec 6) (b4 : BitVec 4) (o : BitVec (1 + 1 + 6 + 4 + 1))
    (ho : o = b12 ++ b11 ++ b10 ++ b4 ++ 0#1) :
    o.extractLsb' 12 1 = b12 ∧ o.extractLsb' 11 1 = b11 ∧ o.extractLsb' 5 6 = b10 ∧ o.extractLsb' 1 4 = b4
      ∧ o.getLsbD 0 = false := by
  subst ho
  simp (decide := true) [-Nat.reduceAdd, BitVec.extractLsb'_append_eq_of_le, BitVec.extractLsb'_append_eq_of_add_le,
    BitVec.getElem_append]

/-- The parts of a J-offset are found again at their places (R134). -/
theorem extractLsb'_immJ (b20 b11 : BitVec 1) (b12 : BitVec 8) (b1 : BitVec 10) (o : BitVec (1 + 8 + 1 + 10 + 1))
    (ho : o = b20 ++ b12 ++ b11 ++ b1 ++ 0#1) :
    o.extractLsb' 20 1 = b20 ∧ o.extractLsb' 12 8 = b12 ∧ o.extractLsb' 11 1 = b11 ∧ o.extractLsb' 1 10 = b1
      ∧ o.getLsbD 0 = false := by
  subst ho
  simp (decide := true) [-Nat.reduceAdd, BitVec.extractLsb'_append_eq_of_le, BitVec.extractLsb'_append_eq_of_add_le,
    BitVec.getElem_append]

theorem encB_fields (w : Word32) :
    encB (fieldImmB w) (fieldRs2 w) (fieldRs1 w) (fieldFunct3 w) (fieldOpcode w) = w := by
  obtain ⟨h12, h11, h5, h1, -⟩ := extractLsb'_immB _ _ _ _ (fieldImmB w) rfl
  simp only [encB, h12, h11, h5, h1, fieldRs1, fieldRs2, fieldFunct3, fieldOpcode, Reg,
    BitVec.extractLsb'_append_extractLsb'_eq_extractLsb', BitVec.extractLsb'_eq_self]

theorem encJ_fields (w : Word32) : encJ (fieldImmJ w) (fieldRd w) (fieldOpcode w) = w := by
  obtain ⟨h20, h12, h11, h1, -⟩ := extractLsb'_immJ _ _ _ _ (fieldImmJ w) rfl
  simp only [encJ, h20, h12, h11, h1, fieldRd, fieldOpcode, Reg,
    BitVec.extractLsb'_append_extractLsb'_eq_extractLsb', BitVec.extractLsb'_eq_self]

theorem fieldImmB_even (w : Word32) : (fieldImmB w).getLsbD 0 = false :=
  (extractLsb'_immB _ _ _ _ (fieldImmB w) rfl).2.2.2.2

theorem fieldImmJ_even (w : Word32) : (fieldImmJ w).getLsbD 0 = false :=
  (extractLsb'_immJ _ _ _ _ (fieldImmJ w) rfl).2.2.2.2

/-! ## The word of what a sub-table reads (R138) -/

section
variable {w : Word32} {op : BitVec 7} {f3 : BitVec 3} {f6 : BitVec 6} {f7 : BitVec 7} (hop : fieldOpcode w = op)
include hop

theorem encI_of_row (hf3 : fieldFunct3 w = f3) : encI (fieldImmI w) (fieldRs1 w) f3 (fieldRd w) op = w := by
  rw [← hop, ← hf3, encI_fields]

theorem encS_of_row (hf3 : fieldFunct3 w = f3) : encS (fieldImmS w) (fieldRs2 w) (fieldRs1 w) f3 op = w := by
  rw [← hop, ← hf3, encS_fields]

theorem encB_of_row (hf3 : fieldFunct3 w = f3) : encB (fieldImmB w) (fieldRs2 w) (fieldRs1 w) f3 op = w := by
  rw [← hop, ← hf3, encB_fields]

theorem encI_of_shift6 (hrow : fieldFunct3 w = f3 ∧ fieldFunct6 w = f6) :
    encI (f6 ++ fieldShamt6 w) (fieldRs1 w) f3 (fieldRd w) op = w := by
  rw [← hop, ← hrow.1, ← hrow.2, funct6_append_shamt6, encI_fields]

theorem encI_of_shift5 (hrow : fieldFunct3 w = f3 ∧ fieldFunct7 w = f7) :
    encI (f7 ++ fieldShamt5 w) (fieldRs1 w) f3 (fieldRd w) op = w := by
  rw [← hop, ← hrow.1, ← hrow.2, funct7_append_shamt5, encI_fields]

theorem encR_of_row (hrow : fieldFunct3 w = f3 ∧ fieldFunct7 w = f7) :
    encR f7 (fieldRs2 w) (fieldRs1 w) f3 (fieldRd w) op = w := by
  rw [← hop, ← hrow.1, ← hrow.2, encR_fields]

end

/-- The decoder may read `w` as `i`: the word of `i` is `w`, and `i` is well formed or the default of a table. -/
def ReadsAs (w : Word32) (i : Instr) : Prop := encode i = w ∧ (i.wf = true ∨ i = .illegal w)

section
variable {w : Word32}

theorem readsAs_illegal (w : Word32) : ReadsAs w (.illegal w) := ⟨rfl, .inr rfl⟩

/-- A reading chosen by a test. -/
theorem readsAs_ite {p : Prop} [Decidable p] {i j : Instr} (hi : p → ReadsAs w i) (hj : ReadsAs w j) :
    ReadsAs w (if p then i else j) := by
  split
  · exact hi ‹p›
  · exact hj

theorem readsAs_decodeLoad (hop : fieldOpcode w = 0x03#7) : ReadsAs w (decodeLoad w) := by
  unfold decodeLoad
  iterate 7 refine readsAs_ite (fun h => ⟨encI_of_row hop h, .inl rfl⟩) ?_
  exact readsAs_illegal w

theorem readsAs_decodeOpImm (hop : fieldOpcode w = 0x13#7) : ReadsAs w (decodeOpImm w) := by
  unfold decodeOpImm
  iterate 6 refine readsAs_ite (fun h => ⟨encI_of_row hop h, .inl rfl⟩) ?_
  iterate 3 refine readsAs_ite (fun h => ⟨encI_of_shift6 hop h, .inl rfl⟩) ?_
  exact readsAs_illegal w

theorem readsAs_decodeOpImm32 (hop : fieldOpcode w = 0x1B#7) : ReadsAs w (decodeOpImm32 w) := by
  unfold decodeOpImm32
  refine readsAs_ite (fun h => ⟨encI_of_row hop h, .inl rfl⟩) ?_
  iterate 3 refine readsAs_ite (fun h => ⟨encI_of_shift5 hop h, .inl rfl⟩) ?_
  exact readsAs_illegal w

theorem readsAs_decodeStore (hop : fieldOpcode w = 0x23#7) : ReadsAs w (decodeStore w) := by
  unfold decodeStore
  iterate 4 refine readsAs_ite (fun h => ⟨encS_of_row hop h, .inl rfl⟩) ?_
  exact readsAs_illegal w

theorem readsAs_decodeOp (hop : fieldOpcode w = 0x33#7) : ReadsAs w (decodeOp w) := by
  unfold decodeOp
  iterate 18 refine readsAs_ite (fun h => ⟨encR_of_row hop h, .inl rfl⟩) ?_
  exact readsAs_illegal w

theorem readsAs_decodeOp32 (hop : fieldOpcode w = 0x3B#7) : ReadsAs w (decodeOp32 w) := by
  unfold decodeOp32
  iterate 10 refine readsAs_ite (fun h => ⟨encR_of_row hop h, .inl rfl⟩) ?_
  exact readsAs_illegal w

theorem readsAs_decodeBranch (hop : fieldOpcode w = 0x63#7) : ReadsAs w (decodeBranch w) := by
  unfold decodeBranch
  iterate 6 refine readsAs_ite (fun h => ⟨encB_of_row hop h, .inl (beq_iff_eq.2 (fieldImmB_even w))⟩) ?_
  exact readsAs_illegal w

theorem readsAs_decodeJalr (hop : fieldOpcode w = 0x67#7) : ReadsAs w (decodeJalr w) :=
  readsAs_ite (fun h => ⟨encI_of_row hop h, .inl rfl⟩) (readsAs_illegal w)

end

/-- The decoder reads every field of the format of the word's row (R122, R136). -/
theorem readsAs_decodeWord (w : Word32) : ReadsAs w (decodeWord w) := by
  have hrest {op : BitVec 7} (hop : fieldOpcode w = op) : fieldRest w ++ op = w := by rw [← hop, rest_append_opcode]
  have hU {op : BitVec 7} (hop : fieldOpcode w = op) : encU (fieldImmU w) (fieldRd w) op = w := by
    rw [← hop, encU_fields]
  have hJ (hop : fieldOpcode w = 0x6F#7) : ReadsAs w (.jal (fieldRd w) (fieldImmJ w)) :=
    ⟨(congrArg _ hop.symm).trans (encJ_fields w), .inl (beq_iff_eq.2 (fieldImmJ_even w))⟩
  exact readsAs_ite (fun hzero => ⟨hzero.symm, .inl rfl⟩) <|
    readsAs_ite readsAs_decodeLoad <|
    readsAs_ite (fun hop => ⟨hrest hop, .inl rfl⟩) <|
    readsAs_ite readsAs_decodeOpImm <|
    readsAs_ite (fun hop => ⟨hU hop, .inl rfl⟩) <|
    readsAs_ite readsAs_decodeOpImm32 <|
    readsAs_ite readsAs_decodeStore <|
    readsAs_ite (fun hop => ⟨hrest hop, .inl rfl⟩) <|
    readsAs_ite readsAs_decodeOp <|
    readsAs_ite (fun hop => ⟨hU hop, .inl rfl⟩) <|
    readsAs_ite readsAs_decodeOp32 <|
    readsAs_ite readsAs_decodeBranch <|
    readsAs_ite readsAs_decodeJalr <|
    readsAs_ite hJ <|
    readsAs_ite (fun hop => ⟨hrest hop, .inl rfl⟩) (readsAs_illegal w)

/-- No bit of a word is dropped. -/
theorem encode_decodeWord (w : Word32) : encode (decodeWord w) = w := (readsAs_decodeWord w).1

/-! ## The rows of the opcode table (R136 to R138) -/

/-- A non-zero word that carries the fixed fields of a row is not illegal: its major opcode selects the sub-table of the
row, and there its `funct` fields one of the instructions. -/
theorem decodeWord_ne_illegal_of_has {w : Word32} (hzero : w ≠ 0#32) :
    ∀ row ∈ opcodeRows, row.has w = true → ∀ word, decodeWord w ≠ .illegal word := by
  simp only [opcodeRows, opcodeRows1, opcodeRows2, opcodeRows3, List.cons_append, List.nil_append, List.forall_mem_cons,
    OpcodeRow.has, Option.all_none, Option.all_some, Bool.and_eq_true, beq_iff_eq, and_imp]
  simp +contextual [decodeWord, decodeLoad, decodeOpImm, decodeOpImm32, decodeStore, decodeOp, decodeOp32, decodeBranch,
    decodeJalr, hzero]

/-- The word of an instruction carries the fixed fields of its row. -/
theorem hasRow_encode (i : Instr) (hzero : i ≠ .zero) (hrow : ∀ w, i ≠ .illegal w) : hasRow (encode i) = true := by
  simp only [hasRow, opcodeRows, opcodeRows1, opcodeRows2, opcodeRows3, List.cons_append, List.nil_append]
  cases i
  case zero => exact absurd rfl hzero
  case illegal w => exact absurd rfl (hrow w)
  all_goals simp [encode, OpcodeRow.has]

/-- Two rows fix the same field, to different values. -/
def fixedApart {n : Nat} (f g : Option (BitVec n)) : Bool := f.any fun a => g.any (a != ·)

/-- Two rows fix one of the fields to different values. -/
def rowsApart (r r' : OpcodeRow) : Bool :=
  r.opcode != r'.opcode || fixedApart r.funct3 r'.funct3 || fixedApart r.funct7 r'.funct7 || fixedApart r.funct6 r'.funct6

theorem not_fixedApart_of_all {n : Nat} {f g : Option (BitVec n)} {a : BitVec n} (hf : f.all (a == ·) = true)
    (hg : g.all (a == ·) = true) : fixedApart f g = false := by
  cases f <;> cases g <;> simp_all [fixedApart]

/-- No word is in two rows that fix a field to different values. -/
theorem not_rowsApart_of_has {r r' : OpcodeRow} {w : Word32} (hr : r.has w = true) (hr' : r'.has w = true) :
    ¬ rowsApart r r' = true := by
  simp only [OpcodeRow.has, Bool.and_eq_true, beq_iff_eq] at hr hr'
  obtain ⟨⟨⟨hop, hf3⟩, hf7⟩, hf6⟩ := hr
  obtain ⟨⟨⟨hop', hf3'⟩, hf7'⟩, hf6'⟩ := hr'
  simp [rowsApart, ← hop, ← hop', not_fixedApart_of_all hf3 hf3', not_fixedApart_of_all hf7 hf7',
    not_fixedApart_of_all hf6 hf6']

theorem opcodeRows_apart : opcodeRows.Pairwise fun r r' => rowsApart r r' = true := by decide

/-- No two rows of the table share a word. -/
theorem row_eq_of_has {w : Word32} {r r' : OpcodeRow} (hr : r ∈ opcodeRows) (hr' : r' ∈ opcodeRows)
    (hhas : r.has w = true) (hhas' : r'.has w = true) : r = r' := by
  by_contra hne
  have hapart : opcodeRows.Pairwise fun r r' => ¬ (r.has w = true ∧ r'.has w = true) :=
    opcodeRows_apart.imp fun hapart ⟨hr, hr'⟩ => not_rowsApart_of_has hr hr' hapart
  have : Std.Symm fun r r' : OpcodeRow => ¬ (r.has w = true ∧ r'.has w = true) := ⟨fun _ _ h hboth => h hboth.symm⟩
  exact hapart.forall hr hr' hne ⟨hhas, hhas'⟩

/-! ## The obligations -/

/-- Only the default row answers an illegal instruction, and it keeps the word (R136 step 4). -/
theorem eq_of_decodeWord_illegal {w word : Word32} (h : decodeWord w = .illegal word) : word = w := by
  simpa [h, encode] using encode_decodeWord w

theorem decodeWord_zero : decodeWord 0#32 = .zero := if_pos rfl

/-- An illegal word is one no row has, and every other word but 0 has the row of its instruction. -/
theorem decodeWord_illegal_iff {w : Word32} : decodeWord w = .illegal w ↔ w ≠ 0#32 ∧ hasRow w = false := by
  constructor
  · intro h
    have hzero : w ≠ 0#32 := by
      rintro rfl
      exact absurd (h.symm.trans decodeWord_zero) nofun
    refine ⟨hzero, ?_⟩
    rw [hasRow, List.any_eq_false]
    exact fun row hrow hhas => decodeWord_ne_illegal_of_has hzero row hrow hhas w h
  · rintro ⟨hzero, hnone⟩
    by_contra hne
    have hrow : ∀ word, decodeWord w ≠ .illegal word := fun word h => hne (eq_of_decodeWord_illegal h ▸ h)
    have hz : decodeWord w ≠ .zero := fun h => hzero (by simpa [h, encode] using (encode_decodeWord w).symm)
    simpa [encode_decodeWord, hnone] using hasRow_encode _ hz hrow

/-- Settles O3: an illegal word is its own, so that `decodeWord_illegal_iff` says when; two rows differ in a fixed field. -/
theorem illegalIffNoRow : Obligations.IllegalIffNoRow := by
  intro w
  refine ⟨?_, fun r hr r' hr' => row_eq_of_has hr hr'⟩
  have hself : (∃ word, decodeWord w = .illegal word) ↔ decodeWord w = .illegal w :=
    ⟨fun ⟨word, h⟩ => eq_of_decodeWord_illegal h ▸ h, fun h => ⟨w, h⟩⟩
  rw [hself, decodeWord_illegal_iff, hasRow, List.any_eq_false]
  simp only [Bool.not_eq_true]

/-- What the decoder reads is well formed: a sub-table reads an even offset, and the default row a word without a row. -/
theorem wf_decodeWord (w : Word32) : (decodeWord w).wf = true := by
  rcases (readsAs_decodeWord w).2 with hwf | hillegal
  · exact hwf
  · rw [hillegal]
    simpa [Instr.wf] using decodeWord_illegal_iff.1 hillegal

/-- Settles O1: a word of a row is read in its sub-table; an illegal word is one no row has. -/
theorem decodeEncodeRoundTrip : Obligations.DecodeEncodeRoundTrip := by
  intro i hwf
  by_cases hrow : ∀ w, i ≠ .illegal w
  · exact decodeWord_encode_of_row i hwf hrow
  · simp only [not_forall, not_not] at hrow
    obtain ⟨w, rfl⟩ := hrow
    have hword : w ≠ 0#32 ∧ hasRow w = false := by simpa [Instr.wf] using hwf
    exact decodeWord_illegal_iff.2 hword

/-- Settles O2. -/
theorem encodeDecodeRoundTrip : Obligations.EncodeDecodeRoundTrip := fun w => ⟨wf_decodeWord w, encode_decodeWord w⟩

end Sys2Proof.Machine

namespace Sys2Proof.Machine

/-! ## The registers and the bytes of a word (R66, R121, R143, R144) -/

/-- The major opcodes of the instructions without a destination, without sources and with two (R143, R144). -/
theorem registers_by_opcode (i : Instr) (hzero : i ≠ .zero) (hrow : ∀ w, i ≠ .illegal w) :
    (dest i = none ↔ fieldOpcode (encode i) ∈ [0x23#7, 0x63#7, 0x0F#7, 0x2F#7, 0x73#7]) ∧
      (src1 i = none ↔ fieldOpcode (encode i) ∈ [0x17#7, 0x37#7, 0x6F#7, 0x0F#7, 0x2F#7, 0x73#7]) ∧
      (src2 i ≠ none ↔ fieldOpcode (encode i) ∈ [0x23#7, 0x33#7, 0x3B#7, 0x63#7]) := by
  cases i
  case zero => exact absurd rfl hzero
  case illegal w => exact absurd rfl (hrow w)
  all_goals simp [dest, src1, src2, encode]

/-- Settles O7: `Fields.all` says where the registers of an instruction stand in its word, which is `w`. -/
theorem registerFields : Obligations.RegisterFields := by
  intro w
  obtain ⟨hdest, hsrc1, hsrc2⟩ := Laws.Fields.all (decodeWord w)
  have hopcode := registers_by_opcode (decodeWord w)
  rw [encode_decodeWord] at hdest hsrc1 hsrc2 hopcode
  refine ⟨fun r h => (hdest r h).symm, fun r h => (hsrc1 r h).symm, fun r h => (hsrc2 r h).symm, ?_, ?_⟩
  · rintro (rfl | hillegal)
    · rw [decodeWord_zero]
      exact ⟨rfl, rfl, rfl⟩
    · rw [hillegal]
      exact ⟨rfl, rfl, rfl⟩
  · intro hlegal hzero
    refine hopcode (fun h => hzero ?_) fun word h => hlegal (eq_of_decodeWord_illegal h ▸ h)
    simpa [h, encode] using (encode_decodeWord w).symm

/-- The bytes of an instruction, one by one. -/
theorem encodeBytes_eq (i : Instr) :
    encodeBytes i =
      [(encode i).extractLsb' 0 8, (encode i).extractLsb' 8 8, (encode i).extractLsb' 16 8, (encode i).extractLsb' 24 8] := by
  simp only [encodeBytes, leBytes, List.cons.injEq, and_true]
  refine ⟨?_, ?_, ?_, ?_⟩ <;> apply BitVec.eq_of_toNat_eq <;>
    simp [BitVec.extractLsb'_toNat, Nat.shiftRight_eq_div_pow, Nat.div_div_eq_div_mul]

/-- Four bytes and what follows are an instruction and the rest. -/
theorem decodeBytes_append {bytes : List Byte} (h : bytes.length = 4) (rest : List Byte) :
    decodeBytes (bytes ++ rest) = .ok (decodeWord (BitVec.ofNat 32 (leValue bytes)), rest) := by
  obtain ⟨b0, b1, b2, b3, rfl⟩ : ∃ b0 b1 b2 b3, bytes = [b0, b1, b2, b3] := by
    match bytes, h with
    | [b0, b1, b2, b3], _ => exact ⟨b0, b1, b2, b3, rfl⟩
  rfl

/-- Settles O5: four bytes hold the whole word, which decodes to the instruction. -/
theorem bytesRoundTrip : Obligations.BytesRoundTrip := by
  refine ⟨fun i rest hwf => ?_, encodeBytes_eq, fun bytes hlen => ?_⟩
  · have hvalue : leValue (encodeBytes i) = (encode i).toNat := by
      rw [encodeBytes, leValue_leBytes]
      exact Nat.mod_eq_of_lt (encode i).isLt
    have hlength : (encodeBytes i).length = 4 := length_leBytes 4 _
    rw [decodeBytes_append hlength, hvalue, BitVec.ofNat_toNat, BitVec.setWidth_eq,
      decodeEncodeRoundTrip i hwf]
  · match bytes, hlen with
    | [], _ | [_], _ | [_, _], _ | [_, _, _], _ => rfl

/-- Settles O4: the decoder computes. -/
theorem sampleWordsDecode : Obligations.SampleWordsDecode := by
  unfold Obligations.SampleWordsDecode
  decide

end Sys2Proof.Machine

namespace Sys2Proof.Machine

/-! ## The halves of a product (R203 to R206) -/

/-- The high half of a 128-bit product, signed, above its low half. -/
theorem highHalf_low_eq {p : Int} (hlow : -2 ^ 127 ≤ p) (hhigh : p < 2 ^ 127) :
    (highHalf p).toInt * 2 ^ 64 + p % 2 ^ 64 = p := by
  have hhalf : (highHalf p).toInt = p / 2 ^ 64 := by
    rw [highHalf, BitVec.toInt_eq_toNat_bmod, BitVec.extractLsb'_toNat, BitVec.toNat_ofInt, Nat.shiftRight_eq_div_pow,
      Int.bmod_def]
    omega
  rw [hhalf]
  omega

/-- The product's low half is what `MUL` writes, whatever integers the operands are read as (R203). -/
theorem mul_toNat_of_emod {a b : Word} {x y : Int} (hx : x % 2 ^ 64 = a.toNat) (hy : y % 2 ^ 64 = b.toNat) :
    ((a * b).toNat : Int) = x * y % 2 ^ 64 := by
  rw [Int.mul_emod, hx, hy, BitVec.toNat_mul]
  push_cast
  rfl

theorem toInt_emod (a : Word) : a.toInt % 2 ^ 64 = a.toNat := by
  have := a.isLt
  rw [BitVec.toInt_eq_toNat_bmod, Int.bmod_def]
  omega

theorem toNat_emod (a : Word) : (a.toNat : Int) % 2 ^ 64 = a.toNat := by
  have := a.isLt
  omega

theorem unsigned_halves (a b : Word) :
    a.toNat * b.toNat = ((BitVec.ofNat 128 (a.toNat * b.toNat)).extractLsb' 64 64).toNat * 2 ^ 64 + (a * b).toNat := by
  have hlt : a.toNat * b.toNat < 2 ^ 128 :=
    calc a.toNat * b.toNat < 2 ^ 64 * 2 ^ 64 := Nat.mul_lt_mul'' a.isLt b.isLt
      _ = 2 ^ 128 := by norm_num
  rw [BitVec.extractLsb'_toNat, BitVec.toNat_ofNat, Nat.shiftRight_eq_div_pow, BitVec.toNat_mul]
  omega

theorem toInt_mul_bounds (a b : Word) : -2 ^ 127 ≤ a.toInt * b.toInt ∧ a.toInt * b.toInt < 2 ^ 127 := by
  have ha := a.le_toInt
  have ha' := a.toInt_lt
  have hb := b.le_toInt
  have hb' := b.toInt_lt
  norm_num at *
  constructor <;> nlinarith

theorem toInt_mul_toNat_bounds (a b : Word) : -2 ^ 127 ≤ a.toInt * (b.toNat : Int) ∧ a.toInt * (b.toNat : Int) < 2 ^ 127 := by
  have ha := a.le_toInt
  have ha' := a.toInt_lt
  have hb := b.isLt
  norm_num at *
  constructor <;> nlinarith

/-- Settles O14: each high multiply narrows the product its rule names, and `MUL` holds the low half of all three. -/
theorem productHalves : Obligations.ProductHalves := by
  intro s v rd rs1 rs2 hx writes
  obtain ⟨⟨hmul, -⟩, ⟨hmulh, -⟩, ⟨hmulhsu, -⟩, ⟨hmulhu, -⟩, -⟩ := multiplyResults s v rd rs1 rs2 hx
  refine ⟨_, _, _, _, exec_m_of_withResult hmul, exec_m_of_withResult hmulh, exec_m_of_withResult hmulhsu,
    exec_m_of_withResult hmulhu, ?_, ?_, unsigned_halves v.a v.b⟩
  · obtain ⟨hlow, hhigh⟩ := toInt_mul_bounds v.a v.b
    rw [mul_toNat_of_emod (toInt_emod v.a) (toInt_emod v.b)]
    exact (highHalf_low_eq hlow hhigh).symm
  · obtain ⟨hlow, hhigh⟩ := toInt_mul_toNat_bounds v.a v.b
    rw [mul_toNat_of_emod (toInt_emod v.a) (toNat_emod v.b)]
    exact (highHalf_low_eq hlow hhigh).symm

/-! ## Loads and stores in execute (R262, R263) -/

/-- Settles O19: each meaning is the load template, and each word the encoder's. -/
theorem loadDescriptors : Obligations.LoadDescriptors := by
  intro s v rd rs1 imm hx
  exact ⟨⟨execLoad_instr hx rd imm _ _, decodeWord_encode_of_row (.lb rd rs1 imm) rfl nofun⟩,
    ⟨execLoad_instr hx rd imm _ _, decodeWord_encode_of_row (.lh rd rs1 imm) rfl nofun⟩,
    ⟨execLoad_instr hx rd imm _ _, decodeWord_encode_of_row (.lw rd rs1 imm) rfl nofun⟩,
    ⟨execLoad_instr hx rd imm _ _, decodeWord_encode_of_row (.ld rd rs1 imm) rfl nofun⟩,
    ⟨execLoad_instr hx rd imm _ _, decodeWord_encode_of_row (.lbu rd rs1 imm) rfl nofun⟩,
    ⟨execLoad_instr hx rd imm _ _, decodeWord_encode_of_row (.lhu rd rs1 imm) rfl nofun⟩,
    ⟨execLoad_instr hx rd imm _ _, decodeWord_encode_of_row (.lwu rd rs1 imm) rfl nofun⟩⟩

/-- Settles O20: each meaning is the store template, and each word the encoder's. -/
theorem storeDescriptors : Obligations.StoreDescriptors := by
  intro s v rs1 rs2 imm hx
  exact ⟨⟨execStore_instr hx imm _, decodeWord_encode_of_row (.sb rs1 rs2 imm) rfl nofun⟩,
    ⟨execStore_instr hx imm _, decodeWord_encode_of_row (.sh rs1 rs2 imm) rfl nofun⟩,
    ⟨execStore_instr hx imm _, decodeWord_encode_of_row (.sw rs1 rs2 imm) rfl nofun⟩,
    ⟨execStore_instr hx imm _, decodeWord_encode_of_row (.sd rs1 rs2 imm) rfl nofun⟩⟩

/-! ## The frame of execution (R370 to R377) -/

/-- The instructions that train the predictor: branches and jumps (R249). -/
def Transfers (i : Instr) : Prop :=
  (∃ rs1 rs2 offset, i = .beq rs1 rs2 offset ∨ i = .bne rs1 rs2 offset ∨ i = .blt rs1 rs2 offset
      ∨ i = .bge rs1 rs2 offset ∨ i = .bltu rs1 rs2 offset ∨ i = .bgeu rs1 rs2 offset) ∨
    (∃ rd offset, i = .jal rd offset) ∨ ∃ rd rs1 imm, i = .jalr rd rs1 imm

/-- Every meaning, with the predictor it leaves: only a branch or a jump trains it. -/
theorem exec_eq_onInstr_bp (i : Instr) (s : State) :
    ∃ (bp : XInstr → Vector BpEntry 32) (m' : XInstr → MLatch) (nextPc : XInstr → Word),
      (exec i s = onInstr s fun v =>
          ({ s with bp := bp v, log := logAfter i v s.log } : State).executed v (m' v) (nextPc v)) ∧
        ((∀ v, bp v = s.bp) ∨ Transfers i) := by
  cases i
  case beq rs1 rs2 offset => exact ⟨_, _, _, rfl, .inr (.inl ⟨rs1, rs2, offset, by simp⟩)⟩
  case bne rs1 rs2 offset => exact ⟨_, _, _, rfl, .inr (.inl ⟨rs1, rs2, offset, by simp⟩)⟩
  case blt rs1 rs2 offset => exact ⟨_, _, _, rfl, .inr (.inl ⟨rs1, rs2, offset, by simp⟩)⟩
  case bge rs1 rs2 offset => exact ⟨_, _, _, rfl, .inr (.inl ⟨rs1, rs2, offset, by simp⟩)⟩
  case bltu rs1 rs2 offset => exact ⟨_, _, _, rfl, .inr (.inl ⟨rs1, rs2, offset, by simp⟩)⟩
  case bgeu rs1 rs2 offset => exact ⟨_, _, _, rfl, .inr (.inl ⟨rs1, rs2, offset, by simp⟩)⟩
  case jal rd offset => exact ⟨_, _, _, rfl, .inr (.inr (.inl ⟨rd, offset, rfl⟩))⟩
  case jalr rd rs1 imm => exact ⟨_, _, _, rfl, .inr (.inr (.inr ⟨rd, rs1, imm, rfl⟩))⟩
  all_goals exact ⟨_, _, _, rfl, .inl fun _ => rfl⟩

theorem logAfter_eq_or_illegal (i : Instr) (v : XInstr) (log : List (Word × Word32)) :
    logAfter i v log = log ∨ ∃ word, i = .illegal word := by
  by_cases h : logAfter i v log = log
  · exact .inl h
  · exact .inr (logAfter_ne h)

/-- A meaning writes `M` in place of a bubble or a token, or runs the instruction in `X` (R371, R377). -/
theorem onInstr_next (s : State) (f : XInstr → State) :
    (∃ m', onInstr s f = .next { s with m := m' }) ∨ ∃ v, onInstr s f = .next (f v) := by
  unfold onInstr
  split
  · exact .inl ⟨_, rfl⟩
  · exact .inl ⟨_, rfl⟩
  · exact .inr ⟨_, rfl⟩

/-- What a meaning changes: `M`, and the PC, the fetch status and `D` together. -/
theorem State.executed_frame (s : State) (v : XInstr) (m' : MLatch) (nextPc : Word) :
    ∃ pc fs d, s.executed v m' nextPc = { s with m := m', pc := pc, fs := fs, d := d } ∧
      ((pc = s.pc ∧ fs = s.fs ∧ d = s.d) ∨ (fs = .fresh ∧ d = .bubble)) := by
  obtain ⟨-, h⟩ | ⟨-, h⟩ := s.executed_cases v m' nextPc
  · exact ⟨s.pc, s.fs, s.d, h, .inl ⟨rfl, rfl, rfl⟩⟩
  · exact ⟨nextPc, .fresh, .bubble, h, .inr ⟨rfl, rfl⟩⟩

/-- Settles O21: a meaning writes `M` only, or leaves what `executed` leaves after its log entry and its training of the
predictor. -/
theorem execFrame : Obligations.ExecFrame := by
  intro i s
  obtain ⟨bp, m', nextPc, hexec, hbp⟩ := exec_eq_onInstr_bp i s
  obtain ⟨m', h⟩ | ⟨v, h⟩ := onInstr_next s fun v =>
    ({ s with bp := bp v, log := logAfter i v s.log } : State).executed v (m' v) (nextPc v)
  · exact ⟨_, hexec.trans h, rfl, rfl, rfl, rfl, rfl, rfl, rfl, rfl, rfl, rfl, rfl, rfl, rfl, rfl, rfl, rfl, rfl,
      .inl ⟨rfl, rfl, rfl⟩, .inl rfl, .inl rfl⟩
  · obtain ⟨pc, fs, d, hframe, hredirect⟩ :=
      State.executed_frame { s with bp := bp v, log := logAfter i v s.log } v (m' v) (nextPc v)
    rw [hframe] at h
    exact ⟨_, hexec.trans h, rfl, rfl, rfl, rfl, rfl, rfl, rfl, rfl, rfl, rfl, rfl, rfl, rfl, rfl, rfl, rfl, rfl,
      hredirect, logAfter_eq_or_illegal i v s.log, hbp.imp_left (· v)⟩

/-! ## The step and execute (R332) -/

theorem DataChange.x_eq {s t : State} (h : DataChange s t) : t.x = s.x := by
  obtain ⟨_, _, _, _, _, _, _, _, _, rfl⟩ := h
  rfl

/-- Settles O25: the memory stage leaves `X` alone, and `advance` runs its instruction first. -/
theorem stepRunsInstruction : Obligations.StepRunsInstruction := by
  intro s s1 s2 mout spent v i hrun hm hx hop
  have hx1 : s1.x = .instr v := by
    have hc := memoryStage_changes s.writeback
    rw [hm] at hc
    rw [hc.x_eq, State.writeback_x, hx]
  refine ⟨hx1, fun hexec => ?_⟩
  have hstage : executeStage s1 = .next s2 := by
    rw [executeStage, hx1, ← hexec, ← hop]
  rw [State.running, beq_iff_eq] at hrun
  rw [step, cycle, hrun, hm]
  dsimp only
  rw [advance, hstage]
  dsimp only
  cases fetchStage s.bp s.pmem (spent && s.params.portSharing == .global) (decodeStage s.x mout s2) <;> rfl

/-! ## The placed instruction (assumption 12) -/

/-- With no instruction in execute every source resolves (R354). -/
theorem readSource_bubble (s : State) (mout : WLatch) (src : Option Reg) :
    readSource s .bubble mout src = some (scalarOperand (resolveOperand s mout) src) := by
  cases src <;> rfl

/-- The placed instruction is in `X` as decode would write it; the machine runs and has nothing in `M`. -/
theorem placeInstr_x (s : State) (word : Word32) :
    ∃ a b, (placeInstr s word).x = .instr (decodedInstr s.pc word (s.pc + 4#64) a b) ∧
      (placeInstr s word).halt = .running ∧ (placeInstr s word).m = .bubble := by
  simp only [placeInstr, decodeStage, readSource_bubble]
  exact ⟨_, _, rfl, trivial, trivial⟩

/-- A word of at most 32 bits is read from the table's bits as it stands. -/
theorem decodeTableWord_eq {nbits : Nat} (hbits : nbits ≤ 32) (w : Nat) :
    decodeTableWord nbits w = some (decodeWord (BitVec.ofNat 32 (w % 2 ^ nbits))) := by
  have hlt : w % 2 ^ nbits < 256 ^ 4 :=
    calc w % 2 ^ nbits < 2 ^ nbits := Nat.mod_lt _ (Nat.two_pow_pos _)
      _ ≤ 2 ^ 32 := Nat.pow_le_pow_right (by decide) hbits
  have hbytes := decodeBytes_append (length_leBytes 4 (w % 2 ^ nbits)) []
  rw [List.append_nil, leValue_leBytes, Nat.mod_eq_of_lt hlt] at hbytes
  rw [decodeTableWord, hbytes]

/-- Settles O26: the hazard test finds nothing ahead of the placed instruction, so decode resolves it. -/
theorem placedWordRuns : Obligations.PlacedWordRuns := by
  intro s nbits w hbits
  obtain ⟨a, b, hx, hhalt, hm⟩ := placeInstr_x s (BitVec.ofNat 32 (w % 2 ^ nbits))
  refine ⟨_, hx, rfl, decodeTableWord_eq hbits w, rfl, rfl, beq_iff_eq.2 hhalt, ?_⟩
  exact ⟨_, by rw [memoryStage, State.writeback_m, State.withFetchWord, hm]⟩

end Sys2Proof.Machine

namespace Sys2Proof.Machine

/-! ## The sides are separate, and `PTBR` and the parameters constant (R30, R79, R349, R382) -/

section
variable {s t start : State} {mout : WLatch} {spent : Bool}

theorem advance_ptbr (h : advance start mout spent s = .next t) : t.ptbr = s.ptbr := by
  obtain ⟨s1, s2, hexec, hfetch, rfl⟩ := advance_next h
  obtain ⟨_, _, _, hdecode⟩ := decodeStage_changes start.x mout s1
  rw [hdecode] at hfetch
  obtain ⟨_, _, _, _, _, _, rfl⟩ := executeStage_changes hexec
  obtain ⟨_, _, _, _, _, _, _, _, _, rfl⟩ := fetchStage_changes hfetch
  rfl

theorem DataChange.ptbr_eq (h : DataChange s t) : t.ptbr = s.ptbr := by
  obtain ⟨_, _, _, _, _, _, _, _, _, rfl⟩ := h
  rfl

theorem DataChange.params_eq (h : DataChange s t) : t.params = s.params := by
  obtain ⟨_, _, _, _, _, _, _, _, _, rfl⟩ := h
  rfl

/-- No step changes `PTBR` or a parameter (R11, R30). -/
theorem step_ptbr_params (h : step s = .next t) : t.ptbr = s.ptbr ∧ t.params = s.params := by
  have hc := memoryStage_changes s.writeback
  obtain ⟨-, rfl⟩ | ⟨-, ⟨s1, reason, pc, va, hm, rfl⟩ | ⟨s1, hm, rfl⟩ | ⟨s1, mout, spent, hm, hadv⟩⟩ := step_next h
  · exact ⟨rfl, rfl⟩
  all_goals
    rw [hm] at hc
    have hptbr : s1.ptbr = s.ptbr := hc.ptbr_eq.trans s.writeback_ptbr
    have hparams : s1.params = s.params := hc.params_eq.trans s.writeback_params
  · exact ⟨hptbr, hparams⟩
  · exact ⟨hptbr, hparams⟩
  · exact ⟨(advance_ptbr hadv).trans hptbr, (advance_sameDataSide hadv).1.params.trans hparams⟩

end

/-- Settles O52: the changes of the two stages are those of their own side. -/
theorem sidesAreSeparate : Obligations.SidesAreSeparate := by
  refine ⟨fun bp mem spent s t h => ?_, fun s t h => ?_, fun s t h => step_ptbr_params h⟩
  · obtain ⟨_, _, _, _, _, _, _, _, _, rfl⟩ := fetchStage_changes h
    exact ⟨rfl, rfl, rfl, rfl, rfl, rfl, rfl, rfl, rfl, rfl, rfl, rfl⟩
  · have hc : DataChange s t := by
      have hc := memoryStage_changes s
      obtain ⟨_, _, hm⟩ | hm | ⟨_, _, _, hm⟩ := h
      all_goals
        rw [hm] at hc
        exact hc
    obtain ⟨_, _, _, _, _, _, _, _, _, rfl⟩ := hc
    exact ⟨rfl, rfl, rfl, rfl, rfl, rfl, rfl, rfl, rfl, rfl, rfl, rfl⟩

/-! ## What the data side sees, step by step (R109, R110) -/

/-- One store at most is performed in a cycle: the one in `M`, at its one address. -/
theorem State.storesAt_unique {s : State} {pa pa' : PAddr} {size size' : AccessSize} {value value' : Word}
    (h : s.storesAt pa size value) (h' : s.storesAt pa' size' value') : pa' = pa ∧ size' = size ∧ value' = value := by
  obtain ⟨-, haddr, pc, va, hm⟩ := h
  obtain ⟨-, haddr', pc', va', hm'⟩ := h'
  cases hm.symm.trans hm'
  cases haddr.symm.trans haddr'
  exact ⟨rfl, rfl, rfl⟩

/-- Settles O42: `step_keeps` gives the two cases; a store is written through only under that policy. -/
theorem memoryViewFollowsStores : Obligations.MemoryViewFollowsStores := by
  intro s t hinv hrun hstep
  obtain ⟨hinv', hfollows⟩ := step_keeps hinv.dataInv hstep
  obtain ⟨pa, size, value, hstore, hview⟩ | ⟨hnone, hview⟩ := hfollows
  · refine ⟨fun pa' size' value' hstore' a => ?_, fun hnone => absurd hstore (hnone pa size value)⟩
    obtain ⟨rfl, rfl, rfl⟩ := State.storesAt_unique hstore hstore'
    exact hview a
  · refine ⟨fun pa size value hstore => absurd hstore (hnone pa size value), fun _ a => ?_⟩
    obtain hview | ⟨pc, va, value, pa, issued, hm, -, hms, hview⟩ := hview
    · exact .inl (hview a)
    · have hpolicy : s.writeBack = false := by
        have hst := hinv'.status
        simp only [State.statusOfM, hms, Bool.and_eq_true, Bool.not_eq_true', State.writeBack,
          (step_ptbr_params hstep).2] at hst
        exact hst.1.1.2
      by_cases hin : inAccess pa 8 a = true
      · exact .inr ⟨hpolicy, pc, va, value, pa, issued, hm, hms, hin, (hview a).trans (if_pos hin)⟩
      · exact .inl ((hview a).trans (if_neg hin))

/-- Settles O43: `step_load` gives the bytes in view; `extendSlice` is the extension by size and signedness. -/
theorem loadDeliversView : Obligations.LoadDeliversView := by
  intro s t pa rd size signed hinv hstep hload v
  obtain ⟨-, pc, hw⟩ := step_load hinv.dataInv hstep hload
  refine ⟨pc, hw.trans ?_⟩
  cases size <;> cases signed <;> rfl

/-! ## Fetch faults and stalls (R342 to R348) -/

section
variable {bp : Vector BpEntry 32} {mem : Memory} {spent : Bool} {s s' : State} {pa : PAddr}
  {walk : Option (WalkStep × Bool)}

theorem fetchStage_of_misaligned (hfs : s.fs ≠ .faulted) (hpc : misalignedFetch s.pc = true) :
    fetchStage bp mem spent s = .next (fetchFault (.misaligned .instr) s) := by
  unfold fetchStage
  cases h : s.fs with
  | faulted => exact absurd h hfs
  | fresh | iTlb | iDeferred | iFill => exact if_pos hpc

theorem fetchStage_of_walk (hpc : misalignedFetch s.pc = false) (hwalk : s.fetchWalk walk) :
    fetchStage bp mem spent s = fetchTranslate bp mem spent walk s := by
  unfold fetchStage
  obtain ⟨hfs, rfl⟩ | ⟨step, issued, hfs, rfl⟩ := hwalk
  · rw [hfs, hpc]; rfl
  · rw [hfs, hpc]; rfl

theorem fetchStage_of_iFill (hpc : misalignedFetch s.pc = false) {way : Nat} {issued : Bool}
    (hfs : s.fs = .iFill pa way issued) : fetchStage bp mem spent s = icacheAccess bp mem spent pa s := by
  unfold fetchStage
  rw [hfs, hpc]
  rfl

theorem fetchStage_of_fetchReaches (hpc : misalignedFetch s.pc = false) (h : s.fetchReaches pa) :
    fetchStage bp mem spent s = icacheAccess bp mem spent pa s := by
  obtain hfs | ⟨hfs, hgives⟩ := h
  · unfold fetchStage
    rw [hfs, hpc]
    rfl
  · exact fetchStage_of_tlbGives hpc hfs hgives

/-- What holds of the state a cycle of translation leaves, if it leaves one. -/
def TransResult.Leaves (P : State → Prop) : TransResult → Prop
  | .hit _ => True
  | .done t _ => P t
  | .retry t _ _ => P t
  | .pageFault t => P t
  | .slotMismatch t => P t
  | .stop _ => True

/-- A fetch's translation changes the I-TLB and makes a call, and no more (R79). -/
theorem translate_instr_leaves (mem : Memory) (spent : Bool) (walk : Option (WalkStep × Bool)) (va : Word) (s : State) :
    (translate .instr mem spent walk va s).Leaves fun t =>
      ∃ itlb latency calls, t = { s with itlb := itlb, latency := latency, calls := calls } := by
  by_cases hit : s.tlbHits .instr va
  · rw [translate_hit hit]
    trivial
  obtain hm | hm | hm | ⟨_, _, latency, hm | ⟨_, hm⟩ | ⟨_, _, hm⟩ | ⟨_, _, hm⟩⟩ :=
    translate_miss .instr mem spent walk va s hit
  case inr.inl | inr.inr.inl =>
    rw [hm]
    trivial
  all_goals
    rw [hm]
    exact ⟨_, _, _, rfl⟩

/-- A miss that finds its call spent waits, its status as `spentStatus` says (R64, R338). -/
theorem icacheAccess_of_spent (hmiss : hitWay (s.icache.ways (s.iIndex pa)) (s.iTag pa) = none) :
    icacheAccess bp mem true pa s = .next { s with d := .bubble, fs := s.spentStatus pa } := by
  rw [icacheAccess, hmiss]
  rfl

/-- A miss begins its fill, and chooses the victim, when the fetch has no fill in progress (R338, R343). -/
theorem icacheAccess_of_miss (hmiss : hitWay (s.icache.ways (s.iIndex pa)) (s.iTag pa) = none)
    (hfs : ∀ q way issued, s.fs ≠ .iFill q way issued) {way : Nat}
    (hpick : pickVictim s (victimCandidates false (s.icache.ways (s.iIndex pa))) = (way, s')) :
    icacheAccess bp mem false pa s = icacheFill bp mem pa way false s' := by
  rw [icacheAccess, hmiss]
  dsimp only
  rw [if_neg Bool.false_ne_true]
  split
  · next q way issued hf => exact absurd hf (hfs q way issued)
  · rw [hpick]

/-- A miss goes on with the fill in progress (R343). -/
theorem icacheAccess_of_iFill (hmiss : hitWay (s.icache.ways (s.iIndex pa)) (s.iTag pa) = none) {q : PAddr} {way : Nat}
    {issued : Bool} (hfs : s.fs = .iFill q way issued) :
    icacheAccess bp mem false pa s = icacheFill bp mem pa way issued s := by
  rw [icacheAccess, hmiss]
  dsimp only
  rw [if_neg Bool.false_ne_true, hfs]

/-- Without a fill in progress such a miss waits at its address (R342). -/
theorem icacheAccess_defers (hmiss : hitWay (s.icache.ways (s.iIndex pa)) (s.iTag pa) = none)
    (hfs : ∀ q way issued, s.fs ≠ .iFill q way issued) :
    icacheAccess bp mem true pa s = .next { s with d := .bubble, fs := .iDeferred pa } := by
  have hstatus : s.spentStatus pa = .iDeferred pa := by
    unfold State.spentStatus
    split
    · next h _ => exact absurd h (hfs _ _ _)
    · rfl
  rw [icacheAccess_of_spent hmiss, hstatus]

theorem State.spentStatus_of_iFill {q : PAddr} {way : Nat} {issued : Bool} (hfs : s.fs = .iFill q way issued) :
    s.spentStatus pa = if s.params.spentFill = .keep then s.fs else .iDeferred pa := by
  unfold State.spentStatus
  rw [hfs]
  cases s.params.spentFill <;> rfl

theorem State.fetchWalk_fs_ne (h : s.fetchWalk walk) (q : PAddr) (way : Nat) (issued : Bool) :
    s.fs ≠ .iFill q way issued := by
  obtain ⟨hfs, -⟩ | ⟨_, _, hfs, -⟩ := h <;> simp [hfs]

theorem State.fetchReaches_fs_ne (h : s.fetchReaches pa) (q : PAddr) (way : Nat) (issued : Bool) :
    s.fs ≠ .iFill q way issued := by
  obtain hfs | ⟨hfs | ⟨_, _, hfs⟩, -⟩ := h <;> simp [hfs]

/-- A cycle of a fill whose read does not complete (R343). -/
theorem icacheFill_of_pending {rest : List Bool} (hl : s.latency = false :: rest)
    (hin : pa.toNat / 16 * 16 + 16 ≤ s.params.pmemSize) (way : Nat) (issued : Bool) :
    icacheFill bp mem pa way issued s = .next { s.answered rest with d := .bubble, fs := .iFill pa way true } := by
  rw [icacheFill, physRead_answered (pa := lineBase Config.iline pa) (n := Config.iline) hl hin]
  rfl

end

/-- Settles O29: the test of alignment comes first; a page fault leaves the PC. -/
theorem fetchFaultTokens : Obligations.FetchFaultTokens := by
  intro bp mem spent s s'
  refine ⟨fun hfs hpc => fetchStage_of_misaligned hfs ((misalignedFetch_iff _).2 hpc), fun walk hpc hwalk hfault => ?_,
    fun hfs => by rw [fetchStage, hfs]⟩
  have hleaves := translate_instr_leaves mem spent walk s.pc s
  have haligned : misalignedFetch s.pc = false := by
    rw [← Bool.not_eq_true, misalignedFetch_iff, not_not]
    exact hpc
  rw [hfault] at hleaves
  obtain ⟨_, _, _, rfl⟩ := hleaves
  refine ⟨rfl, ?_⟩
  rw [fetchStage_of_walk haligned hwalk, fetchTranslate, hfault]
  rfl

/-- Settles O31: the walk, the miss whose call is spent, and the fill, begun or going on. -/
theorem fetchStalls : Obligations.FetchStalls := by
  intro bp mem spent s s' pa hpc
  have haligned : misalignedFetch s.pc = false := by
    rw [← Bool.not_eq_true, misalignedFetch_iff, not_not]
    exact hpc
  refine ⟨fun walk step issued hwalk hretry => ?_, fun walk hwalk hdone hmiss => ?_, fun hmiss => ⟨?_, ?_⟩⟩
  · have hleaves := translate_instr_leaves mem spent walk s.pc s
    rw [hretry] at hleaves
    obtain ⟨_, _, _, rfl⟩ := hleaves
    refine ⟨rfl, ?_⟩
    rw [fetchStage_of_walk haligned hwalk, fetchTranslate, hretry]
  · obtain ⟨itlb, latency, rfl⟩ := translate_instr_done hdone
    refine ⟨rfl, ?_⟩
    rw [fetchStage_of_walk haligned hwalk, fetchTranslate, hdone]
    exact icacheAccess_defers hmiss (State.fetchWalk_fs_ne hwalk)
  · rintro rfl
    refine ⟨fun hreach => ?_, fun way issued hfs => ?_⟩
    · rw [fetchStage_of_fetchReaches haligned hreach, icacheAccess_defers hmiss (State.fetchReaches_fs_ne hreach)]
    · rw [fetchStage_of_iFill haligned hfs, icacheAccess_of_spent hmiss, State.spentStatus_of_iFill hfs]
  · rintro rest rfl hl hin
    refine ⟨fun way hreach hpick => ?_, fun way issued hfs => ?_⟩
    · rw [fetchStage_of_fetchReaches haligned hreach, icacheAccess_of_miss hmiss (State.fetchReaches_fs_ne hreach) hpick]
      obtain ⟨victims, draws, rfl⟩ := pickVictim_eq hpick
      exact ⟨rfl, icacheFill_of_pending (s := { s with victims := victims, draws := draws }) hl hin way false⟩
    · rw [fetchStage_of_iFill haligned hfs, icacheAccess_of_iFill hmiss hfs, icacheFill_of_pending hl hin]

/-! ## The stops (R71, R72) -/

/-- Settles O47: each stop is the first test of its operation; the walk's comes after the TLB's. -/
theorem stopsAreNamed : Obligations.StopsAreNamed := by
  intro s mem issued pa n bytes
  refine ⟨fun h => if_pos h, fun h => if_pos h, ?_, fun bp a data h => icacheServe_stored h bp data⟩
  intro side walk va hmiss step hstored
  have hslot : ¬(((s.tlb side).slotFor va).valid && ((s.tlb side).slotFor va).tag == superpage va) = true := by
    rw [Tlb.slotFor_eq, Bool.and_eq_true, beq_iff_eq]
    exact hmiss
  rw [translate]
  dsimp only
  rw [if_neg hslot, if_neg Bool.false_ne_true, if_pos hstored]

/-! ## The victim (R98) -/

/-- The candidates of a set: ways of it that are invalid if any is, else clean under write-back if any is. -/
theorem victimCandidates_preferred {writeBack : Bool} {ways : List Line} {w : Nat}
    (h : w ∈ victimCandidates writeBack ways) :
    ∃ l, ways[w]? = some l ∧ ((∃ k ∈ ways, k.valid = false) → l.valid = false) ∧
      ((∀ k ∈ ways, k.valid = true) → writeBack = true → (∃ k ∈ ways, k.dirty = false) → l.dirty = false) := by
  have hlt := mem_victimCandidates h
  have hget (i : Nat) (hi : i < ways.length) : ways.getD i (Line.empty 0) = ways[i] := List.getD_eq_getElem _ _ hi
  -- a way of the set that passes a test is in the list of those that do
  have hmem (p : Line → Bool) {k : Line} (hk : k ∈ ways) (hp : p k = true) :
      (List.range ways.length).filter (fun i => p (ways.getD i (Line.empty 0))) ≠ [] := by
    obtain ⟨i, hi, rfl⟩ := List.getElem_of_mem hk
    exact List.ne_nil_of_mem (List.mem_filter.2 ⟨List.mem_range.2 hi, by rw [hget i hi, hp]⟩)
  have hpasses (p : Line → Bool) (hw : w ∈ (List.range ways.length).filter fun i => p (ways.getD i (Line.empty 0))) :
      p ways[w] = true := by
    rw [← hget w hlt]
    exact (List.mem_filter.1 hw).2
  refine ⟨ways[w], List.getElem?_eq_getElem hlt, ?_⟩
  unfold victimCandidates at h
  dsimp only at h
  split at h
  · have hvalid := hpasses (fun l => !l.valid) h
    refine ⟨fun _ => by simpa using hvalid, fun hall => ?_⟩
    simp [hall ways[w] (List.getElem_mem hlt)] at hvalid
  · next hnone =>
    refine ⟨fun ⟨k, hk, hv⟩ => absurd (hmem (fun l => !l.valid) hk (by simp [hv])) hnone, fun _ hwb ⟨k, hk, hd⟩ => ?_⟩
    rw [if_pos (by simpa [hwb] using hmem (fun l => !l.dirty) hk (by simp [hd]))] at h
    simpa using hpasses (fun l => !l.dirty) h

/-- A set of one way has it as its only candidate. -/
theorem victimCandidates_singleton (writeBack : Bool) (l : Line) : victimCandidates writeBack [l] = [0] := by
  cases hv : l.valid <;> cases hd : l.dirty <;> simp [victimCandidates, List.range_succ, hv, hd]

/-- Settles O38: the victim is a candidate, and a lone one is not drawn. -/
theorem victimChoice : Obligations.VictimChoice := by
  intro s t writeBack ways way hne hpick
  have hcandidates := victimCandidates_ne_nil (writeBack := writeBack) (List.length_pos_iff.2 hne)
  have hmem := (pickVictim_cases s _ hcandidates).1
  rw [hpick] at hmem
  obtain ⟨l, hl, hvalid, hdirty⟩ := victimCandidates_preferred hmem
  refine ⟨l, hl, hvalid, hdirty, fun hone => ?_⟩
  obtain ⟨l, rfl⟩ := List.length_eq_one_iff.1 hone
  rw [victimCandidates_singleton] at hpick
  cases hpick
  exact ⟨rfl, rfl⟩

end Sys2Proof.Machine

namespace Sys2Proof.Machine

/-! ## The scalar result of every instruction (R150 to R238) -/

theorem shamt64_eq_mod (b : Word) : shamt64 b = b.toNat % 64 := by
  rw [shamt64, BitVec.toNat_setWidth]

theorem shamt32_eq_mod (b : Word) : shamt32 b = b.toNat % 32 := by
  rw [shamt32, BitVec.toNat_setWidth]

theorem highHalf_eq_ofInt (p : Int) : highHalf p = BitVec.ofInt 64 (p / 2 ^ 64) := by
  apply BitVec.eq_of_toNat_eq
  rw [highHalf, BitVec.extractLsb'_toNat, BitVec.toNat_ofInt, BitVec.toNat_ofInt, Nat.shiftRight_eq_div_pow]
  omega

theorem highHalf_eq_ofNat (a b : Nat) : highHalf ((a : Int) * b) = BitVec.ofNat 64 (a * b / 2 ^ 64) := by
  rw [highHalf_eq_ofInt, ← BitVec.ofInt_natCast]
  push_cast
  rfl

theorem ofNat_toNat_div {w : Nat} (a b : BitVec w) : BitVec.ofNat w (a.toNat / b.toNat) = a / b := by
  rw [← BitVec.toNat_udiv, BitVec.ofNat_toNat, BitVec.setWidth_eq]

theorem ofNat_toNat_mod {w : Nat} (a b : BitVec w) : BitVec.ofNat w (a.toNat % b.toNat) = a % b := by
  rw [← BitVec.toNat_umod, BitVec.ofNat_toNat, BitVec.setWidth_eq]

/-- What an instruction `i` in `X` may write into `M` for a scalar machine's result: the register write of that result; a
load's descriptor, whose result memory gives; and without a destination no register write. -/
def WritesM (p : Params) (i : Instr) (v : XInstr) (m : MLatch) : Prop :=
  (∃ rd value, dest i = some rd ∧ scalarResult p i v.pc v.a v.b = some value ∧ m = .reg v.pc (some rd) value) ∨
    (∃ rd va size signed, dest i = some rd ∧ scalarResult p i v.pc v.a v.b = none ∧
      m = .load v.pc (some rd) va size signed) ∨
    (dest i = none ∧ (m = .noEffect v.pc ∨ ∃ va size value, m = .store v.pc va size value))

/-- The meaning of `i` in `s` is the scalar one: it goes to the scalar next PC and writes the scalar result into `M`. -/
def RunsScalar (i : Instr) (s : State) : Prop :=
  ∀ v, s.x = .instr v → ∃ bp log m',
    exec i s = .next (({ s with bp := bp, log := log } : State).executed v m' (scalarNextPc i v.pc v.a v.b)) ∧
      WritesM s.params i v m'

section
variable {i : Instr} {s : State} {rd : Reg}

theorem runsScalar_of_result {result : XInstr → Word} (h : exec i s = execResult rd result s) (hdest : dest i = some rd)
    (hresult : ∀ v : XInstr, scalarResult s.params i v.pc v.a v.b = some (result v))
    (hnext : ∀ v : XInstr, scalarNextPc i v.pc v.a v.b = v.pc + 4#64) : RunsScalar i s := fun v hx =>
  ⟨s.bp, s.log, _, by rw [h, execResult_instr hx, hnext]; rfl, .inl ⟨rd, result v, hdest, hresult v, rfl⟩⟩

theorem runsScalar_of_noOp (h : exec i s = execNoOp s) (hdest : dest i = none)
    (hnext : ∀ v : XInstr, scalarNextPc i v.pc v.a v.b = v.pc + 4#64) : RunsScalar i s := fun v hx =>
  ⟨s.bp, s.log, _, by rw [h, execNoOp_instr hx, hnext], .inr (.inr ⟨hdest, .inl rfl⟩)⟩

theorem runsScalar_of_branch {cond : Word → Word → Bool} {offset : BitVec 13} (h : exec i s = execBranch cond offset s)
    (hdest : dest i = none)
    (hnext : ∀ v : XInstr, scalarNextPc i v.pc v.a v.b =
      if cond v.a v.b = true then v.pc + offset.signExtend 64 else v.pc + 4#64) : RunsScalar i s := fun v hx =>
  ⟨_, s.log, _, by rw [h, execBranch_instr hx, hnext]; rfl, .inr (.inr ⟨hdest, .inl rfl⟩)⟩

theorem runsScalar_of_jump {target : XInstr → Word} (h : exec i s = execJump rd target s) (hdest : dest i = some rd)
    (hresult : ∀ v : XInstr, scalarResult s.params i v.pc v.a v.b = some (v.pc + 4#64))
    (hnext : ∀ v : XInstr, scalarNextPc i v.pc v.a v.b = target v) : RunsScalar i s := fun v hx =>
  ⟨_, s.log, _, by rw [h, execJump_instr hx, hnext]; rfl, .inl ⟨rd, _, hdest, hresult v, rfl⟩⟩

theorem runsScalar_of_load {imm : BitVec 12} {size : AccessSize} {signed : Bool}
    (h : exec i s = execLoad rd imm size signed s) (hdest : dest i = some rd)
    (hresult : ∀ v : XInstr, scalarResult s.params i v.pc v.a v.b = none)
    (hnext : ∀ v : XInstr, scalarNextPc i v.pc v.a v.b = v.pc + 4#64) : RunsScalar i s := fun v hx =>
  ⟨s.bp, s.log, _, by rw [h, execLoad_instr hx, hnext], .inr (.inl ⟨rd, _, _, _, hdest, hresult v, rfl⟩)⟩

theorem runsScalar_of_store {imm : BitVec 12} {size : AccessSize} (h : exec i s = execStore imm size s)
    (hdest : dest i = none) (hnext : ∀ v : XInstr, scalarNextPc i v.pc v.a v.b = v.pc + 4#64) : RunsScalar i s := fun v hx =>
  ⟨s.bp, s.log, _, by rw [h, execStore_instr hx, hnext], .inr (.inr ⟨hdest, .inr ⟨_, _, _, rfl⟩⟩)⟩

end

/-- Every instruction runs as the scalar machine's: the two state their conditions, shift amounts, products and quotients
in their own ways. -/
theorem runsScalar (i : Instr) (s : State) : RunsScalar i s := by
  cases i
  case zero | miscMem | amo | system => exact runsScalar_of_noOp rfl rfl fun _ => rfl
  case illegal word => exact fun v hx => ⟨s.bp, _, _, execIllegal_instr hx word, .inr (.inr ⟨rfl, .inl rfl⟩)⟩
  case lb | lh | lw | ld | lbu | lhu | lwu => exact runsScalar_of_load rfl rfl (fun _ => rfl) fun _ => rfl
  case sb | sh | sw | sd => exact runsScalar_of_store rfl rfl fun _ => rfl
  case jal | jalr => exact runsScalar_of_jump rfl rfl (fun _ => rfl) fun _ => rfl
  case beq => exact runsScalar_of_branch rfl rfl fun v => by simp only [scalarNextPc, beq_iff_eq]
  case bne => exact runsScalar_of_branch rfl rfl fun v => by simp only [scalarNextPc, bne_iff_ne]
  case blt => exact runsScalar_of_branch rfl rfl fun v => by simp only [scalarNextPc, ltSigned_iff]
  case bge =>
    exact runsScalar_of_branch (cond := fun a b => !ltSigned a b) rfl rfl fun v => by
      simp only [scalarNextPc, not_ltSigned_iff]
  case bltu => exact runsScalar_of_branch rfl rfl fun v => by simp only [scalarNextPc, ltUnsigned_iff]
  case bgeu =>
    exact runsScalar_of_branch (cond := fun a b => !ltUnsigned a b) rfl rfl fun v => by
      simp only [scalarNextPc, not_ltUnsigned_iff]
  case slti | slt => exact runsScalar_of_result rfl rfl (fun v => congrArg some (boolWord_ltSigned _ _).symm) fun _ => rfl
  case sltiu | sltu =>
    exact runsScalar_of_result rfl rfl (fun v => congrArg some (boolWord_ltUnsigned _ _).symm) fun _ => rfl
  case sll | srl | sra =>
    exact runsScalar_of_result rfl rfl (fun v => by rw [shamt64_eq_mod]; rfl) fun _ => rfl
  case sllw | srlw | sraw =>
    exact runsScalar_of_result rfl rfl (fun v => by rw [shamt32_eq_mod]; rfl) fun _ => rfl
  case mulh | mulhsu => exact runsScalar_of_result rfl rfl (fun v => by rw [highHalf_eq_ofInt]; rfl) fun _ => rfl
  case mulhu => exact runsScalar_of_result rfl rfl (fun v => by rw [highHalf_eq_ofNat]; rfl) fun _ => rfl
  case div => exact runsScalar_of_result rfl rfl (fun v => by rw [orSentinel_sentinel64]; rfl) fun _ => rfl
  case divu =>
    exact runsScalar_of_result rfl rfl (fun v => by rw [orSentinel_sentinelU64, ofNat_toNat_div]; rfl) fun _ => rfl
  case rem =>
    exact runsScalar_of_result rfl rfl (fun v => by rw [orSentinel_sentinel64, ← Int.tmod_def]; rfl) fun _ => rfl
  case remu =>
    exact runsScalar_of_result rfl rfl (fun v => by rw [orSentinel_sentinelU64, ofNat_toNat_mod]; rfl) fun _ => rfl
  case divw => exact runsScalar_of_result rfl rfl (fun v => by rw [orSentinel_sentinel32]; rfl) fun _ => rfl
  case divuw =>
    exact runsScalar_of_result rfl rfl (fun v => by rw [orSentinel_sentinelU32, ofNat_toNat_div]; rfl) fun _ => rfl
  case remw =>
    exact runsScalar_of_result rfl rfl (fun v => by rw [orSentinel_sentinel32, ← Int.tmod_def]; rfl) fun _ => rfl
  case remuw =>
    exact runsScalar_of_result rfl rfl (fun v => by rw [orSentinel_sentinelU32, ofNat_toNat_mod]; rfl) fun _ => rfl
  all_goals exact runsScalar_of_result rfl rfl (fun _ => rfl) fun _ => rfl

end Sys2Proof.Machine

namespace Sys2Proof.Machine

/-! ## What a cycle does to the latches (R332, R392) -/

/-- `t` has the latches above `W`, the fetch status and the parameters of `s`. -/
structure SameLatches (s t : State) : Prop where
  x : t.x = s.x
  d : t.d = s.d
  pc : t.pc = s.pc
  fs : t.fs = s.fs
  m : t.m = s.m
  params : t.params = s.params

section
variable {s t u start : State} {mout : WLatch} {spent : Bool} {v : XInstr}

theorem SameLatches.trans (h : SameLatches s t) (k : SameLatches t u) : SameLatches s u :=
  ⟨k.x.trans h.x, k.d.trans h.d, k.pc.trans h.pc, k.fs.trans h.fs, k.m.trans h.m, k.params.trans h.params⟩

theorem State.writeback_sameLatches (s : State) : SameLatches s s.writeback := by
  constructor <;> simp

theorem DataChange.sameLatches (h : DataChange s t) : SameLatches s t ∧ t.regs = s.regs ∧ t.w = s.w := by
  obtain ⟨_, _, _, _, _, _, _, _, _, rfl⟩ := h
  exact ⟨⟨rfl, rfl, rfl, rfl, rfl, rfl⟩, rfl, rfl⟩

theorem SameLatches.chained (h : SameLatches s t) : t.chained = s.chained := by
  unfold State.chained State.pcAfterX
  rw [h.x, h.d, h.pc, h.fs]

theorem SameLatches.nextToExecute (h : SameLatches s t) : t.nextToExecute = s.nextToExecute := by
  unfold State.nextToExecute State.pcAfterX
  rw [h.x, h.d, h.pc]

/-- A cycle in which the memory stage halts or stalls leaves the latches (R305, R392); one in which it completes advances
from a state that has them. -/
theorem step_latches (h : step s = .next t) :
    t = s ∨
      ((∀ s1 mout spent, memoryStage s.writeback ≠ .out s1 mout spent) ∧ SameLatches s t ∧ t.regs = s.writeback.regs ∧
        (t.w = s.w ∨ t.w = .bubble)) ∨
      ∃ s1 mout spent, memoryStage s.writeback = .out s1 mout spent ∧ advance s mout spent s1 = .next t ∧
        SameLatches s s1 ∧ s1.regs = s.writeback.regs ∧ s1.w = s.w := by
  have hc := memoryStage_changes s.writeback
  obtain ⟨-, rfl⟩ | ⟨-, ⟨s1, reason, pc, va, hm, rfl⟩ | ⟨s1, hm, rfl⟩ | ⟨s1, mout, spent, hm, hadv⟩⟩ := step_next h
  · exact .inl rfl
  all_goals
    rw [hm] at hc
    obtain ⟨hlatches, hregs, hw⟩ := DataChange.sameLatches hc
    replace hlatches := s.writeback_sameLatches.trans hlatches
    rw [State.writeback_w] at hw
  · refine .inr (.inl ⟨by simp [hm], ?_, hregs, .inl hw⟩)
    exact ⟨hlatches.x, hlatches.d, hlatches.pc, hlatches.fs, hlatches.m, hlatches.params⟩
  · refine .inr (.inl ⟨by simp [hm], ?_, hregs, .inr rfl⟩)
    exact ⟨hlatches.x, hlatches.d, hlatches.pc, hlatches.fs, hlatches.m, hlatches.params⟩
  · exact .inr (.inr ⟨s1, mout, spent, hm, hadv, hlatches, hregs, hw⟩)

/-! ## What the fetch stage delivers (R344 to R348) -/

/-- `D` after a fetch at `pc`: the instruction there, whose prediction is the next PC; a fault token with which fetch holds;
or nothing yet. -/
def FetchDelivers (pc : Word) (t : State) : Prop :=
  (∃ word predPc, t.d = .instr pc word predPc ∧ t.pc = predPc) ∨
    (∃ fault, t.d = .token pc fault ∧ t.pc = pc ∧ t.fs = .faulted) ∨
    (t.d = .bubble ∧ t.pc = pc)

variable {bp : Vector BpEntry 32} {mem : Memory} {pa : PAddr} {walk : Option (WalkStep × Bool)}

theorem icacheServe_delivers {data : List (Option Byte)} (h : icacheServe bp pa data s = .next t) :
    FetchDelivers s.pc t := by
  obtain ⟨-, rfl⟩ := icacheServe_next h
  exact .inl ⟨_, _, rfl, rfl⟩

theorem icacheFill_delivers {way : Nat} {issued : Bool} (h : icacheFill bp mem pa way issued s = .next t) :
    FetchDelivers s.pc t := by
  obtain ⟨_, rfl | hserve⟩ := icacheFill_cases h
  · exact .inr (.inr ⟨rfl, rfl⟩)
  · exact (icacheServe_delivers hserve :)

theorem icacheAccess_delivers (h : icacheAccess bp mem spent pa s = .next t) : FetchDelivers s.pc t := by
  obtain ⟨_, _, hserve⟩ | ⟨_, ⟨_, rfl⟩ | ⟨_, _, _, _, hfill⟩ | ⟨way, s', hpick, hfill⟩⟩ := icacheAccess_cases h
  · exact (icacheServe_delivers hserve :)
  · exact .inr (.inr ⟨rfl, rfl⟩)
  · exact (icacheFill_delivers hfill :)
  · obtain ⟨_, _, rfl⟩ := pickVictim_eq hpick.symm
    exact (icacheFill_delivers hfill :)

theorem fetchTranslate_delivers (h : fetchTranslate bp mem spent walk s = .next t) : FetchDelivers s.pc t := by
  have hleaves := translate_instr_leaves mem spent walk s.pc s
  unfold fetchTranslate at h
  revert h hleaves
  cases translate .instr mem spent walk s.pc s with
  | hit pa => exact fun h _ => icacheAccess_delivers h
  | done s' pa =>
    rintro h ⟨_, _, _, rfl⟩
    exact (icacheAccess_delivers h :)
  | retry s' step issued =>
    rintro h ⟨_, _, _, rfl⟩
    cases h
    exact .inr (.inr ⟨rfl, rfl⟩)
  | pageFault s' =>
    rintro h ⟨_, _, _, rfl⟩
    cases h
    exact .inr (.inl ⟨_, rfl, rfl, rfl⟩)
  | slotMismatch s' =>
    rintro h ⟨_, _, _, rfl⟩
    cases h
    exact .inr (.inl ⟨_, rfl, rfl, rfl⟩)
  | stop x => cases x <;> exact nofun

theorem fetchStage_of_faulted (hfs : s.fs = .faulted) : fetchStage bp mem spent s = .next { s with d := .bubble } := by
  rw [fetchStage, hfs]

theorem fetchStage_delivers (h : fetchStage bp mem spent s = .next t) : FetchDelivers s.pc t := by
  by_cases hfs : s.fs = .faulted
  · cases (fetchStage_of_faulted hfs).symm.trans h
    exact .inr (.inr ⟨rfl, rfl⟩)
  by_cases hpc : misalignedFetch s.pc = true
  · cases (fetchStage_of_misaligned hfs hpc).symm.trans h
    exact .inr (.inl ⟨_, rfl, rfl, rfl⟩)
  rw [Bool.not_eq_true] at hpc
  cases hs : s.fs with
  | faulted => exact absurd hs hfs
  | fresh => exact fetchTranslate_delivers ((fetchStage_of_walk hpc (.inl ⟨hs, rfl⟩)).symm.trans h)
  | iTlb step issued => exact fetchTranslate_delivers ((fetchStage_of_walk hpc (.inr ⟨_, _, hs, rfl⟩)).symm.trans h)
  | iDeferred pa => exact icacheAccess_delivers ((fetchStage_of_fetchReaches hpc (.inl hs)).symm.trans h)
  | iFill pa way issued => exact icacheAccess_delivers ((fetchStage_of_iFill hpc hs).symm.trans h)

/-- What follows `X` after a fetch is what was to be fetched. -/
theorem FetchDelivers.pcAfterX {pc : Word} (h : FetchDelivers pc t) : t.pcAfterX = pc := by
  unfold State.pcAfterX
  obtain ⟨_, _, hd, -⟩ | ⟨_, hd, -⟩ | ⟨hd, hpc⟩ := h
  · rw [hd]
  · rw [hd]
  · rw [hd]; exact hpc

/-! ## Program order (R345, R347, R372, R393) -/

/-- The PC follows what is in `D`. -/
def State.pcFollowsD (s : State) : Prop :=
  match s.d with
  | .instr _ _ predPc => s.pc = predPc
  | .token pc _ => s.pc = pc ∧ s.fs = .faulted
  | .bubble => True

/-- Fetch leaves `X` and `M` (R349). -/
theorem FetchChange.x_m_eq (h : FetchChange s t) : t.x = s.x ∧ t.m = s.m := by
  obtain ⟨_, _, _, _, _, _, _, _, _, rfl⟩ := h
  exact ⟨rfl, rfl⟩

/-- The order below `X` after a fetch, whatever is in `X` but a token. -/
theorem FetchDelivers.chained {pc : Word} (h : FetchDelivers pc t)
    (hx : t.x = .bubble ∨ ∃ v, t.x = .instr v ∧ v.predPc = pc) : t.chained = true := by
  unfold State.chained
  rw [h.pcAfterX]
  obtain ⟨_, _, hd, hpc⟩ | ⟨_, hd, hpc, hfs⟩ | ⟨hd, hpc⟩ := h <;> obtain hx | ⟨v, hx, hv⟩ := hx <;> simp [*]

/-- Decode and fetch keep the order, and the next to execute is what was to follow. -/
theorem decode_fetch_chained {oldX : XLatch} (hd : u.pcFollowsD)
    (h : fetchStage bp mem spent (decodeStage oldX mout u) = .next t) :
    t.chained = true ∧ t.nextToExecute = u.pcAfterX := by
  have hdelivers := fetchStage_delivers h
  have hx := (fetchStage_changes h).x_m_eq.1
  unfold State.pcFollowsD at hd
  unfold State.nextToExecute State.pcAfterX
  obtain ⟨hud, hdec⟩ | ⟨pc, fault, hud, hdec⟩ | ⟨pc, word, predPc, hud, ⟨a, b, -, -, hdec⟩ | ⟨-, hdec⟩⟩ :=
    decodeStage_cases oldX mout u
  all_goals
    rw [hdec] at hdelivers hx
    rw [hud] at hd ⊢
    rw [hx]
  · exact ⟨hdelivers.chained (.inl hx), hdelivers.pcAfterX⟩
  · obtain ⟨hpc, hfs⟩ := hd
    rw [hdec] at h
    cases (fetchStage_of_faulted (s := { u with x := .token pc fault }) hfs).symm.trans h
    refine ⟨?_, rfl⟩
    simp [State.chained, State.pcAfterX, hpc, hfs]
  · exact ⟨hdelivers.chained (.inr ⟨_, hx, hd.symm⟩), rfl⟩
  · exact ⟨hdelivers.chained (.inl hx), hdelivers.pcAfterX⟩

/-- What the execute stage leaves above it, and what it writes into `M`: with an instruction in `X`, the scalar meaning. -/
theorem executeStage_scalar (h : executeStage s = .next t) :
    ((s.x = .bubble ∧ t = { s with m := .bubble }) ∨ ∃ pc f, s.x = .token pc f ∧ t = { s with m := .token pc f }) ∨
      ∃ v bp log m', s.x = .instr v ∧ WritesM s.params v.op v m' ∧
        ((scalarNextPc v.op v.pc v.a v.b = v.predPc ∧ t = { s with bp := bp, log := log, m := m' }) ∨
          (scalarNextPc v.op v.pc v.a v.b ≠ v.predPc ∧
            t = { s with
              bp := bp
              log := log
              m := m'
              pc := scalarNextPc v.op v.pc v.a v.b
              fs := .fresh
              d := .bubble })) := by
  unfold executeStage at h
  split at h
  · next hx => cases h; exact .inl (.inl ⟨hx, rfl⟩)
  · next pc f hx => cases h; exact .inl (.inr ⟨pc, f, hx, rfl⟩)
  · next v hx =>
    obtain ⟨bp, log, m', hexec, hwrites⟩ := runsScalar v.op s v hx
    cases hexec.symm.trans h
    exact .inr ⟨v, bp, log, m', hx, hwrites, State.executed_cases { s with bp := bp, log := log } v m' _⟩

/-- What the latch `X`, if not empty, was predicted to be followed by does follow it; and fetch holds after a token. -/
theorem State.chained_iff :
    s.chained = true ↔
      (∀ v, s.x = .instr v → s.pcAfterX = v.predPc) ∧ s.pcFollowsD ∧
        ∀ pc f, s.x = .token pc f → s.pcAfterX = pc ∧ s.d = .bubble ∧ s.fs = .faulted := by
  unfold State.chained State.pcFollowsD State.pcAfterX
  cases s.x <;> cases s.d <;> simp
  tauto

theorem State.nextToExecute_of_bubble (hx : s.x = .bubble) : s.nextToExecute = s.pcAfterX := by
  rw [State.nextToExecute, hx]

theorem State.nextToExecute_of_token {pc : Word} {f : FaultInfo} (hx : s.x = .token pc f) : s.nextToExecute = pc := by
  rw [State.nextToExecute, hx]

/-- A cycle that advances keeps the order; the next to execute is at the actual next PC of the instruction in `X`, or else
what it was. -/
theorem advance_chained (hs : s.chained = true) (h : advance start mout spent s = .next t) :
    t.chained = true ∧ (∀ v, s.x = .instr v → t.nextToExecute = scalarNextPc v.op v.pc v.a v.b) ∧
      ((∀ v, s.x ≠ .instr v) → t.nextToExecute = s.nextToExecute) := by
  obtain ⟨hinstr, hpc, htoken⟩ := State.chained_iff.1 hs
  obtain ⟨s1, s2, hexec, hfetch, rfl⟩ := advance_next h
  obtain (⟨hx, rfl⟩ | ⟨pc, f, hx, rfl⟩) | ⟨v, bp, log, m', hx, -, ⟨hnext, rfl⟩ | ⟨hnext, rfl⟩⟩ := executeStage_scalar hexec
  · obtain ⟨hchained, hto⟩ := decode_fetch_chained (by exact hpc) hfetch
    exact ⟨hchained, by simp [hx], fun _ => hto.trans (State.nextToExecute_of_bubble hx).symm⟩
  · obtain ⟨hchained, hto⟩ := decode_fetch_chained (by exact hpc) hfetch
    exact ⟨hchained, by simp [hx],
      fun _ => (hto.trans (htoken pc f hx).1).trans (State.nextToExecute_of_token hx).symm⟩
  · obtain ⟨hchained, hto⟩ := decode_fetch_chained (by exact hpc) hfetch
    refine ⟨hchained, fun u hu => ?_, fun hne => absurd hx (hne v)⟩
    cases hx.symm.trans hu
    exact hto.trans ((hinstr v hx).trans hnext.symm)
  · obtain ⟨hchained, hto⟩ := decode_fetch_chained (by exact trivial) hfetch
    refine ⟨hchained, fun u hu => ?_, fun hne => absurd hx (hne v)⟩
    cases hx.symm.trans hu
    exact hto

end

/-- Settles O56: a frozen cycle leaves the latches, and one that advances keeps their order. -/
theorem programOrderKept : Obligations.ProgramOrderKept := by
  intro s t hs h
  obtain rfl | ⟨-, hsame, -⟩ | ⟨s1, mout, spent, -, hadv, hsame, -⟩ := step_latches h
  · exact hs
  · exact hsame.chained.trans hs
  · exact (advance_chained (hsame.chained.trans hs) hadv).1

/-! ## Kills and rewinds (R355, R372, R374, R375) -/

section
variable {s s1 t u start : State} {mout : WLatch} {spent : Bool} {v : XInstr} {bp : Vector BpEntry 32} {mem : Memory}

/-- The step of a cycle in which the memory stage completes. -/
theorem step_advances (hm : memoryStage s.writeback = .out s1 mout spent) (hrun : s.running = true)
    (h : step s = .next t) :
    advance s mout spent s1 = .next t ∧ SameLatches s s1 ∧ s1.regs = s.writeback.regs ∧ s1.w = s.w := by
  have hc := memoryStage_changes s.writeback
  rw [hm] at hc
  obtain ⟨hsame, hregs, hw⟩ := DataChange.sameLatches hc
  refine ⟨?_, s.writeback_sameLatches.trans hsame, hregs, hw.trans s.writeback_w⟩
  obtain ⟨hhalt, -⟩ | ⟨-, ⟨_, _, _, _, hr, -⟩ | ⟨_, hr, -⟩ | ⟨_, _, _, hr, hadv⟩⟩ := step_next h
  · rw [hrun] at hhalt; cases hhalt
  · cases hm.symm.trans hr
  · cases hm.symm.trans hr
  · cases hm.symm.trans hr
    exact hadv

/-- A killed instruction leaves a bubble, and fetch goes on at the corrected PC. -/
theorem decode_fetch_of_killed {oldX : XLatch} (hd : u.d = .bubble)
    (h : fetchStage bp mem spent (decodeStage oldX mout u) = .next t) : t.x = .bubble ∧ t.pcAfterX = u.pc := by
  have hdecode : decodeStage oldX mout u = { u with x := .bubble } := by rw [decodeStage, hd]
  rw [hdecode] at h
  exact ⟨(fetchStage_changes h).x_m_eq.1, (fetchStage_delivers h).pcAfterX⟩

/-- An instruction whose source waits is fetched again. -/
theorem decode_fetch_of_waiting {oldX : XLatch} {pc predPc : Word} {word : Word32} (hd : u.d = .instr pc word predPc)
    (hwait : readSource u oldX mout (src1 (decodeWord word)) = none ∨
      readSource u oldX mout (src2 (decodeWord word)) = none)
    (h : fetchStage bp mem spent (decodeStage oldX mout u) = .next t) : t.x = .bubble ∧ t.pcAfterX = pc := by
  rw [decodeStage_of_waiting hd hwait] at h
  exact ⟨(fetchStage_changes h).x_m_eq.1, (fetchStage_delivers h).pcAfterX⟩

end

/-- Settles O27: the redirect leaves a bubble in `D` and the actual next PC. -/
theorem redirectKills : Obligations.RedirectKills := by
  intro s s1 t mout spent v hrun hm hx hstep hne
  obtain ⟨hadv, hsame, -⟩ := step_advances hm hrun hstep
  obtain ⟨s2, s3, hexec, hfetch, rfl⟩ := advance_next hadv
  have hx1 := hsame.x.trans hx
  obtain (⟨h, -⟩ | ⟨_, _, h, -⟩) | ⟨u, _, _, _, hu, -, ⟨hnext, -⟩ | ⟨-, rfl⟩⟩ := executeStage_scalar hexec
  · cases hx1.symm.trans h
  · cases hx1.symm.trans h
  · cases hx1.symm.trans hu
    exact absurd hnext hne
  · cases hx1.symm.trans hu
    exact decode_fetch_of_killed (by rfl) hfetch

/-- Settles O28: without `EX_FORWARD` the destination of the instruction in execute waits. -/
theorem rewindRefetches : Obligations.RewindRefetches := by
  intro s s1 t mout spent v pc word predPc r hrun hm hx hd hstep hnext hrd hsrc hfwd
  obtain ⟨hadv, hsame, -⟩ := step_advances hm hrun hstep
  obtain ⟨s2, s3, hexec, hfetch, rfl⟩ := advance_next hadv
  have hx1 := hsame.x.trans hx
  have hd1 := hsame.d.trans hd
  have hfwd1 : s1.params.exForward = false := by rw [hsame.params, hfwd]
  obtain (⟨h, -⟩ | ⟨_, _, h, -⟩) | ⟨u, bp, log, m', hu, -, ⟨-, rfl⟩ | ⟨hne, -⟩⟩ := executeStage_scalar hexec
  · cases hx1.symm.trans h
  · cases hx1.symm.trans h
  · rw [hx] at hfetch
    refine decode_fetch_of_waiting (t := s3) (u := { s1 with bp := bp, log := log, m := m' }) hd1 (hsrc.imp ?_ ?_) hfetch
    all_goals
      intro hsrc
      rw [hsrc]
      exact readOperand_of_hazard hrd (.inl hfwd1)
  · cases hx1.symm.trans hu
    exact absurd hnext hne

end Sys2Proof.Machine

namespace Sys2Proof.Machine

/-! ## What the memory stage sends on (R35, R381) -/

section
variable {s t u start : State} {mout : WLatch} {spent : Bool} {op : DataOp} {pc va : Word} {v : XInstr} {r : Reg}

/-- The output of a load or store that completes is made by its descriptor, of the bytes served. -/
def MemResult.OutBy (P : WLatch → Prop) : MemResult → Prop
  | .out _ mout _ => P mout
  | .stall _ => True
  | .halt _ _ _ _ => True
  | .stop _ => True

theorem DataResult.toMem_outBy {P : WLatch → Prop} {mout : List (Option Byte) → WLatch} (hP : ∀ bytes, P (mout bytes))
    (x : DataResult) : (x.toMem mout).OutBy P := by
  cases x with
  | served t bytes spent => exact hP bytes
  | stall t => trivial
  | stop x => trivial

theorem dataAccess_outBy {P : WLatch → Prop} {mout : PAddr → List (Option Byte) → WLatch}
    (hP : ∀ pa bytes, P (mout pa bytes)) : (dataAccess s op pc va mout).OutBy P := by
  have translated (walk : Option (WalkStep × Bool)) : (translateAndAccess s op pc va walk mout).OutBy P := by
    unfold translateAndAccess
    cases translate .data s.pmem false walk va s with
    | hit pa => exact DataResult.toMem_outBy (hP pa) _
    | done s' pa => exact DataResult.toMem_outBy (hP pa) _
    | retry s' step issued => trivial
    | pageFault s' => trivial
    | slotMismatch s' => trivial
    | stop x => trivial
  unfold dataAccess
  split
  · trivial
  · cases s.ms with
    | idle => exact translated _
    | dTlb step issued => exact translated _
    | dDeferred pa => exact DataResult.toMem_outBy (hP pa) _
    | dEvict pa way victimPa issued => exact DataResult.toMem_outBy (hP pa) _
    | dFill pa way issued => exact DataResult.toMem_outBy (hP pa) _
    | dWriteThrough pa issued => exact DataResult.toMem_outBy (hP pa) _

/-- What a descriptor sends to a register it sends on, unless it is a load to that register. -/
theorem memoryStage_sends (h : memoryStage s = .out t mout spent) (hload : s.m.loadsTo r = false) :
    mout.sends r = s.m.sends r := by
  have outBy {P : WLatch → Prop} (hP : (memoryStage s).OutBy P) : P mout := by
    rw [h] at hP
    exact hP
  unfold memoryStage at h outBy
  cases hm : s.m with
  | bubble => rw [hm] at h; cases h; rfl
  | reg pc rd value => rw [hm] at h; cases h; cases rd <;> rfl
  | noEffect pc => rw [hm] at h; cases h; rfl
  | token pc fault => rw [hm] at h; cases h
  | load pc rd va size signed =>
    rw [hm] at hload outBy
    refine outBy (P := fun w => w.sends r = none) (dataAccess_outBy fun pa bytes => ?_)
    have hrd : rd ≠ some r := by simpa [MLatch.loadsTo] using hload
    cases rd with
    | none => rfl
    | some q => exact if_neg fun hq => hrd (congrArg some hq)
  | store pc va size value =>
    rw [hm] at outBy
    exact outBy (P := fun w => w.sends r = none) (dataAccess_outBy fun _ _ => rfl)

/-! ## The registers after writeback (R21, R400) -/

theorem State.settle_none (s : State) (r : Reg) (old : Word) : s.settle r none old = old := rfl

/-- Writeback leaves in a register what it holds once `W` has retired. -/
theorem State.readReg_writeback (s : State) (r : Reg) : s.writeback.readReg r = s.regAfterW r := by
  unfold State.regAfterW State.settle
  cases hw : s.w with
  | bubble => rw [State.writeback_of_bubble hw]; rfl
  | retire pc rd value =>
    cases rd with
    | none => rw [State.writeback_of_noDest hw]; rfl
    | some q =>
      rw [State.writeback_of_dest hw, WLatch.sends_retire_some, State.readReg_writeReg]
      by_cases hq : q = r
      · subst hq
        simp
      · simp [hq, Ne.symm hq]

/-- The register file of one state and the parameters of another read as that state's registers do. -/
theorem State.readReg_congr (hregs : t.regs = u.regs) (hparams : t.params = u.params) (r : Reg) : t.readReg r = u.readReg r := by
  unfold State.readReg
  rw [hregs, hparams]

theorem State.settle_congr (hparams : t.params = s.params) (r : Reg) (sent : Option Word) (old : Word) :
    t.settle r sent old = s.settle r sent old := by
  unfold State.settle
  rw [hparams]

/-- A value settled twice is settled. -/
theorem State.settle_settle (s : State) (r : Reg) (sent : Option Word) (old : Word) :
    s.settle r sent (s.settle r sent old) = s.settle r sent old := by
  cases sent <;> rfl

/-- A frozen cycle leaves the architectural registers: what `W` held is in the register file. -/
theorem SameLatches.archReg_of_frozen (h : SameLatches s t) (hregs : t.regs = s.writeback.regs)
    (hw : t.w = s.w ∨ t.w = .bubble) (r : Reg) : t.archReg r = s.archReg r := by
  have hread : t.readReg r = s.regAfterW r := by
    rw [← s.readReg_writeback]
    exact State.readReg_congr hregs (h.params.trans s.writeback_params.symm) r
  have hafter : t.regAfterW r = s.regAfterW r := by
    rw [State.regAfterW, hread, State.settle_congr h.params]
    obtain hw | hw := hw
    · rw [hw, State.regAfterW, State.settle_settle]
    · rw [hw]; rfl
  rw [State.archReg, State.archReg, hafter, h.m, State.settle_congr h.params]

/-- The architectural registers once the memory stage's output is in `W`. -/
theorem State.archReg_of_advanced (hregs : t.regs = s.writeback.regs) (hparams : t.params = s.params) (hw : t.w = mout)
    (r : Reg) : t.archReg r = s.settle r (t.m.sends r) (s.archRegAfter mout r) := by
  have hread : t.readReg r = s.regAfterW r := by
    rw [← s.readReg_writeback]
    exact State.readReg_congr hregs (hparams.trans s.writeback_params.symm) r
  rw [State.archReg, State.regAfterW, hread, hw, State.settle_congr hparams, State.settle_congr hparams]
  rfl

/-! ## What execute sends (R34) -/

theorem WritesM.sends {p : Params} {i : Instr} {m : MLatch} (h : WritesM p i v m) (r : Reg) :
    m.sends r = if dest i = some r then scalarResult p i v.pc v.a v.b else none := by
  obtain ⟨rd, value, hdest, hresult, rfl⟩ | ⟨rd, _, _, _, hdest, hresult, rfl⟩ | ⟨hdest, rfl | ⟨_, _, _, rfl⟩⟩ := h
  · rw [hdest, hresult]
    simp [MLatch.sends]
  · rw [hresult]
    exact (ite_self _).symm
  · rw [hdest]
    rfl
  · rw [hdest]
    rfl

theorem WritesM.loadsTo {p : Params} {i : Instr} {m : MLatch} (h : WritesM p i v m) (hr : dest i ≠ some r) :
    m.loadsTo r = false := by
  obtain ⟨rd, value, hdest, hresult, rfl⟩ | ⟨rd, _, _, _, hdest, hresult, rfl⟩ | ⟨hdest, rfl | ⟨_, _, _, rfl⟩⟩ := h
  · rfl
  · simpa [MLatch.loadsTo, ← hdest] using hr
  · rfl
  · rfl

/-! ## The operands decode resolves (R356 to R361) -/

/-- A hard-wired `x0` is 0 at every point of the pipeline (R21). -/
theorem State.archRegAfter_x0 (hx0 : s.params.x0Hardwired = true) (mout : WLatch) : s.archRegAfter mout 0#5 = 0#64 := by
  have hzero {sent : Option Word} {old : Word} (hold : old = 0#64) : s.settle 0#5 sent old = 0#64 := by
    cases sent with
    | none => exact hold
    | some value => exact if_pos ⟨hx0, rfl⟩
  exact hzero (hzero (by rw [State.readReg_eq_ite, if_pos ⟨hx0, rfl⟩]))

theorem State.settle_some_of_ne (hr : ¬(s.params.x0Hardwired = true ∧ r = 0#5)) (value old : Word) :
    s.settle r (some value) old = value := if_neg hr

/-- Under parameters for which `x0` reads as one value, it reads 0 exactly when it is hard-wired (R21, R360). -/
theorem State.plainX0_readsZero_iff (hplain : s.plainX0 = true) :
    readsZero s.params r = true ↔ s.params.x0Hardwired = true ∧ r = 0#5 := by
  rw [readsZero_iff]
  have hquirk : s.params.x0Hardwired = true → s.params.x0ForwardQuirk = false := by
    simpa [State.plainX0, or_iff_not_imp_left] using hplain
  exact ⟨fun ⟨hx0, _, hr⟩ => ⟨hx0, hr⟩, fun ⟨hx0, hr⟩ => ⟨hx0, hquirk hx0, hr⟩⟩

variable (hplain : s.plainX0 = true) (hregs : u.regs = s.writeback.regs) (hparams : u.params = s.params) (hw : u.w = s.w)
include hplain hregs hparams hw

/-- A resolved operand is the register's value once `W` and the memory stage's output have retired. -/
theorem resolveOperand_eq_archRegAfter (mout : WLatch) (r : Reg) : resolveOperand u mout r = s.archRegAfter mout r := by
  have hread : u.readReg r = s.regAfterW r := by
    rw [← s.readReg_writeback]
    exact State.readReg_congr hregs (hparams.trans s.writeback_params.symm) r
  rw [resolveOperand_eq_sends, hread, hw, hparams]
  by_cases hzero : s.params.x0Hardwired = true ∧ r = 0#5
  · obtain ⟨hx0, rfl⟩ := hzero
    rw [if_pos ((State.plainX0_readsZero_iff hplain).2 ⟨hx0, rfl⟩), State.archRegAfter_x0 hx0]
  · rw [if_neg (mt (State.plainX0_readsZero_iff hplain).1 hzero), State.archRegAfter]
    cases mout.sends r with
    | some value => exact (State.settle_some_of_ne hzero _ _).symm
    | none =>
      rw [State.settle_none, State.regAfterW]
      cases s.w.sends r with
      | some value => exact (State.settle_some_of_ne hzero _ _).symm
      | none => rfl

/-- A source that decode resolves is fresh in the state after the cycle: the destination of the instruction in execute is
the only register that changes, and decode has its new value or waits for it. -/
theorem readSource_sourceFresh {src : Option Reg} {value : Word} (hread : readSource u s.x mout src = some value)
    (hfree : ∀ r, (∀ v, s.x = .instr v → v.rd ≠ some r) → u.m.sends r = none ∧ u.m.loadsTo r = false)
    (htarget : ∀ v r, s.x = .instr v → v.rd = some r → ∀ pc rd value, u.m = .reg pc rd value → rd = some r)
    (hm : t.m = u.m) (harch : ∀ r, t.archReg r = s.settle r (u.m.sends r) (s.archRegAfter mout r)) :
    t.sourceFresh src value = true := by
  cases src with
  | none =>
    cases hread
    rfl
  | some r =>
    simp only [State.sourceFresh, Bool.and_eq_true, beq_iff_eq, Bool.not_eq_true', hm, harch]
    change readOperand u s.x mout r = some value at hread
    by_cases hbusy : ∃ v, s.x = .instr v ∧ v.rd = some r
    · obtain ⟨v, hx, hrd⟩ := hbusy
      rw [hx] at hread
      by_cases hwait : u.params.exForward = false ∨ ∀ pc rd value, u.m ≠ .reg pc rd value
      · rw [readOperand_of_hazard hrd hwait] at hread
        cases hread
      · simp only [not_or, not_forall, not_not, Bool.not_eq_false] at hwait
        obtain ⟨hfwd, pc, rd, result, hreg⟩ := hwait
        obtain rfl := htarget v r hx hrd pc rd result hreg
        rw [readOperand_of_forward hrd hfwd hreg, if_pos rfl, hparams] at hread
        cases hread
        rw [hreg]
        refine ⟨?_, rfl⟩
        simp only [MLatch.sends, if_true, State.settle]
        exact if_congr (State.plainX0_readsZero_iff hplain) rfl rfl
    · simp only [not_exists, not_and] at hbusy
      obtain ⟨hsends, hloads⟩ := hfree r hbusy
      rw [readOperand_of_free hbusy, resolveOperand_eq_archRegAfter hplain hregs hparams hw] at hread
      cases hread
      rw [hsends, State.settle_none]
      exact ⟨rfl, hloads⟩

end
section
variable {s t u start : State} {mout : WLatch} {spent : Bool}

/-- Execute leaves the registers, the parameters and `W`. -/
theorem ExecuteChange.regs_params_w (h : ExecuteChange s u) : u.regs = s.regs ∧ u.params = s.params ∧ u.w = s.w := by
  obtain ⟨_, _, _, _, _, _, rfl⟩ := h
  exact ⟨rfl, rfl, rfl⟩

theorem State.decodedX_rd (h : s.decodedX = true) {v : XInstr} (hx : s.x = .instr v) : v.rd = dest v.op := by
  rw [State.decodedX, hx] at h
  simp only [Bool.and_eq_true, beq_iff_eq] at h
  exact h.1.2

/-- `M` after execute: the scalar meaning's descriptor, or nothing that sends or loads. -/
theorem executeStage_m (h : executeStage s = .next u) :
    (∃ v, s.x = .instr v ∧ WritesM s.params v.op v u.m) ∨
      (∀ v, s.x ≠ .instr v) ∧ (∀ r, u.m.sends r = none ∧ u.m.loadsTo r = false) := by
  obtain (⟨hx, rfl⟩ | ⟨_, _, hx, rfl⟩) | ⟨v, _, _, _, hx, hwrites, ⟨-, rfl⟩ | ⟨-, rfl⟩⟩ := executeStage_scalar h
  · exact .inr ⟨by simp [hx], fun _ => ⟨rfl, rfl⟩⟩
  · exact .inr ⟨by simp [hx], fun _ => ⟨rfl, rfl⟩⟩
  · exact .inl ⟨v, hx, hwrites⟩
  · exact .inl ⟨v, hx, hwrites⟩

theorem executeStage_free (h : executeStage s = .next u) (hdec : s.decodedX = true) (r : Reg)
    (hfree : ∀ v, s.x = .instr v → v.rd ≠ some r) : u.m.sends r = none ∧ u.m.loadsTo r = false := by
  obtain ⟨v, hx, hwrites⟩ | ⟨-, hnone⟩ := executeStage_m h
  · have hr : dest v.op ≠ some r := State.decodedX_rd hdec hx ▸ hfree v hx
    exact ⟨(hwrites.sends r).trans (if_neg hr), hwrites.loadsTo hr⟩
  · exact hnone r

theorem executeStage_target (h : executeStage s = .next u) (hdec : s.decodedX = true) {v : XInstr} {r : Reg}
    (hx : s.x = .instr v) (hrd : v.rd = some r) {pc value : Word} {rd : Option Reg} (hm : u.m = .reg pc rd value) :
    rd = some r := by
  obtain ⟨v', hx', hwrites⟩ | ⟨hne, -⟩ := executeStage_m h
  · cases hx.symm.trans hx'
    rw [hm] at hwrites
    obtain ⟨q, _, hdest, -, hreg⟩ | ⟨_, _, _, _, -, -, hreg⟩ | ⟨-, hreg | ⟨_, _, _, hreg⟩⟩ := hwrites
    · cases hreg
      rw [← hdest, ← State.decodedX_rd hdec hx, hrd]
    · cases hreg
    · cases hreg
    · cases hreg
  · exact absurd hx (hne v)

/-- Decode changes neither the registers nor `M`, `W` and the parameters. -/
theorem advance_rest {s1 : State} (hexec : executeStage start = .next s1) {bp : Vector BpEntry 32} {mem : Memory}
    {oldX : XLatch}
    (hfetch : fetchStage bp mem spent (decodeStage oldX mout s1) = .next t) :
    t.m = s1.m ∧ t.x = (decodeStage oldX mout s1).x ∧ t.regs = start.regs ∧ t.params = start.params := by
  obtain ⟨_, _, _, hdecode⟩ := decodeStage_changes oldX mout s1
  rw [hdecode] at hfetch ⊢
  obtain ⟨_, _, _, _, _, _, rfl⟩ := executeStage_changes hexec
  obtain ⟨_, _, _, _, _, _, _, _, _, rfl⟩ := fetchStage_changes hfetch
  exact ⟨rfl, rfl, rfl, rfl⟩

theorem SameLatches.decodedX (h : SameLatches s t) : t.decodedX = s.decodedX := by
  unfold State.decodedX
  rw [h.x]

end

/-- Settles O57: decode resolves fresh operands, and no register changes while they are in `X` but by what execute sends. -/
theorem operandsStayFresh : Obligations.OperandsStayFresh := by
  intro s t hplain hdec hfresh h
  obtain rfl | ⟨-, hsame, hregs, hw⟩ | ⟨s1, mout, spent, -, hadv, hsame, hregs, hw⟩ := step_latches h
  · exact hfresh
  · have harch := hsame.archReg_of_frozen hregs hw
    unfold State.operandsFresh State.sourceFresh at hfresh ⊢
    simpa only [hsame.x, hsame.m, harch] using hfresh
  · obtain ⟨s2, s3, hexec, hfetch, rfl⟩ := advance_next hadv
    have hdec1 : s1.decodedX = true := hsame.decodedX.trans hdec
    obtain ⟨hm3, hx3, hregs3, hparams3⟩ := advance_rest hexec hfetch
    obtain ⟨hregs2, hparams2, hw2⟩ := (executeStage_changes hexec).regs_params_w
    have fresh {src : Option Reg} {value : Word} (hread : readSource s2 s.x mout src = some value) :
        ({ s3 with w := mout } : State).sourceFresh src value = true := by
      refine readSource_sourceFresh hplain (hregs2.trans hregs) (hparams2.trans hsame.params) (hw2.trans hw) hread
        (fun r hfree => executeStage_free hexec hdec1 r (hsame.x ▸ hfree))
        (fun v r hx hrd pc rd value => executeStage_target hexec hdec1 (hsame.x.trans hx) hrd) hm3 fun r => ?_
      rw [← hm3]
      exact State.archReg_of_advanced (t := { s3 with w := mout }) (hregs3.trans hregs) (hparams3.trans hsame.params) rfl r
    unfold State.operandsFresh
    change (match s3.x with | .instr v => _ | .bubble => _ | .token _ _ => _) = true
    rw [hx3]
    obtain ⟨-, hd⟩ | ⟨_, _, -, hd⟩ | ⟨_, _, _, -, ⟨a, b, ha, hb, hd⟩ | ⟨-, hd⟩⟩ := decodeStage_cases s.x mout s2
    · rw [hd]
    · rw [hd]
    · rw [hd]
      exact Bool.and_eq_true_iff.2 ⟨fresh ha, fresh hb⟩
    · rw [hd]

/-! ## The scalar machine (R184, R361, R372, R393) -/

/-- A fresh source is, when the memory stage completes, the architectural value it leaves. -/
theorem sourceFresh_archRegAfter {s s1 : State} {mout : WLatch} {spent : Bool}
    (hm : memoryStage s.writeback = .out s1 mout spent) {src : Option Reg} {value : Word}
    (h : s.sourceFresh src value = true) : value = scalarOperand (s.archRegAfter mout) src := by
  cases src with
  | none => exact beq_iff_eq.1 h
  | some r =>
    simp only [State.sourceFresh, Bool.and_eq_true, beq_iff_eq, Bool.not_eq_true'] at h
    obtain ⟨hvalue, hload⟩ := h
    have hsends : mout.sends r = s.m.sends r := by
      rw [← s.writeback_m] at hload ⊢
      exact memoryStage_sends hm hload
    rw [hvalue, State.archReg, ← hsends]
    rfl

/-- The operands of the instruction in `X` are the architectural ones. -/
theorem operandsFresh_archRegAfter {s s1 : State} {mout : WLatch} {spent : Bool} {v : XInstr}
    (hm : memoryStage s.writeback = .out s1 mout spent) (hx : s.x = .instr v) (h : s.operandsFresh = true) :
    v.a = scalarOperand (s.archRegAfter mout) (src1 v.op) ∧ v.b = scalarOperand (s.archRegAfter mout) (src2 v.op) := by
  rw [State.operandsFresh, hx] at h
  obtain ⟨ha, hb⟩ := Bool.and_eq_true_iff.1 h
  exact ⟨sourceFresh_archRegAfter hm ha, sourceFresh_archRegAfter hm hb⟩

/-- The architectural registers after a cycle that advances: what execute sends into `M`, on top of those the memory stage
leaves. -/
theorem advance_archReg {s s1 t : State} {mout : WLatch} {spent : Bool} (hsame : SameLatches s s1)
    (hregs : s1.regs = s.writeback.regs) (hadv : advance s mout spent s1 = .next t) :
    ∃ m, t.m = m ∧ (∀ r, t.archReg r = s.settle r (m.sends r) (s.archRegAfter mout r)) ∧
      ((∃ v, s.x = .instr v ∧ WritesM s.params v.op v m) ∨ (∀ v, s.x ≠ .instr v) ∧ ∀ r, m.sends r = none) := by
  obtain ⟨s2, s3, hexec, hfetch, rfl⟩ := advance_next hadv
  obtain ⟨hm3, -, hregs3, hparams3⟩ := advance_rest hexec hfetch
  refine ⟨_, hm3, fun r => ?_, ?_⟩
  · rw [← hm3]
    exact State.archReg_of_advanced (t := { s3 with w := mout }) (hregs3.trans hregs) (hparams3.trans hsame.params) rfl r
  · have hcases := executeStage_m hexec
    rw [hsame.x, hsame.params] at hcases
    exact hcases.imp_right fun ⟨hne, hnone⟩ => ⟨hne, fun r => (hnone r).1⟩

/-- Settles O60: the order of the latches gives the next to execute, and the freshness of the operands the result. -/
theorem scalarExecution : Obligations.ScalarExecution := by
  intro s t hplain hdec hfresh hchained hrun h
  refine ⟨fun s1 mout spent v hm hx => ?_, fun s1 mout spent hm hne => ?_, fun hnever => ?_⟩
  · obtain ⟨hadv, hsame, hregs, -⟩ := step_advances hm hrun h
    obtain ⟨ha, hb⟩ := operandsFresh_archRegAfter hm hx hfresh
    obtain ⟨-, hnext, -⟩ := advance_chained (hsame.chained.trans hchained) hadv
    obtain ⟨m, -, harch, ⟨v', hx', hwrites⟩ | ⟨hne, -⟩⟩ := advance_archReg hsame hregs hadv
    · cases hx.symm.trans hx'
      rw [← ha, ← hb]
      exact ⟨hnext v (hsame.x.trans hx), fun r => by rw [harch, hwrites.sends]⟩
    · exact absurd hx (hne v)
  · obtain ⟨hadv, hsame, hregs, -⟩ := step_advances hm hrun h
    obtain ⟨-, -, hnext⟩ := advance_chained (hsame.chained.trans hchained) hadv
    obtain ⟨m, -, harch, ⟨v, hx, -⟩ | ⟨-, hnone⟩⟩ := advance_archReg hsame hregs hadv
    · exact absurd hx (hne v)
    · refine ⟨(hnext fun v => hsame.x ▸ hne v).trans hsame.nextToExecute, fun r => ?_⟩
      rw [harch, hnone, State.settle_none]
  · obtain rfl | ⟨-, hsame, hregs, hw⟩ | ⟨s1, mout, spent, hm, -⟩ := step_latches h
    · exact ⟨rfl, fun _ => rfl⟩
    · exact ⟨hsame.nextToExecute, hsame.archReg_of_frozen hregs hw⟩
    · exact absurd hm (hnever s1 mout spent)

end Sys2Proof.Machine

namespace Sys2Proof.Machine

/-! ## An 8-byte store that misses (R105, R108) -/

section
variable {s t : State} {pc va value : Word} {pa : PAddr} {way : Nat} {rest : List Bool}

theorem memoryStage_doubleword (hm : s.m = .store pc va .b8 value) :
    memoryStage s = dataAccess s (.store .b8 value) pc va fun _ _ => .retire pc none 0#64 := by
  rw [memoryStage, hm]

theorem misalignedData_doubleword (hva : va.toNat % 8 = 0) : misalignedData va .b8 = false := by
  rw [← Bool.not_eq_true, misalignedData_iff, hva]
  decide

/-- The write-back of the victim is answered, and the line of the store takes its place in the same cycle (R108). -/
theorem evictStep_doubleword_answered (hwb : s.writeBack = true) (hpa : pa.toNat % 8 = 0)
    (hway : way < (s.dcache.ways (s.dIndex pa)).length) (hl : s.latency = true :: rest) {victimPa : PAddr}
    (hin : victimPa.toNat + (s.dLine pa way).data.length ≤ s.params.pmemSize) (issued : Bool) :
    evictStep s (.store .b8 value) pa way victimPa issued =
      .served
        { s.answered rest with
          ms := .idle
          pmem := s.pmem.writeBytes victimPa.toNat (s.dLine pa way).data
          dcache := installedSet s pa way value true
          stored := storedAdd (storedAdd s.stored pa.toNat 8) pa.toNat 8 }
        [] true := by
  rw [evictStep, physWrite_answered hl hin, if_pos rfl]
  dsimp only
  rw [installStore_writeBack (by exact hwb) hpa (lt_of_lt_of_eq hway (Cache.length_ways_setLine _ _ _ _).symm)]
  unfold installedSet
  simp only [State.setDLine, State.dIndex, State.dTag, State.answered, Cache.setLine_setLine]

end

/-- Settles O41: the fill of an 8-byte store is its install, alone or in the cycle its victim's write-back is answered. -/
theorem doublewordStoreSkipsFill : Obligations.DoublewordStoreSkipsFill := by
  intro s t pc va value pa way hm hva hpa hway bytes installed after
  have hal : misalignedData va (DataOp.store .b8 value).size = false := misalignedData_doubleword hva
  have hstored (a : Nat) : (storedAdd (storedAdd s.stored pa.toNat 8) pa.toNat 8).contains a =
      (s.stored.contains a || (decide (pa.toNat ≤ a) && decide (a < pa.toNat + 8))) := by
    rw [storedAdd_twice, contains_storedAdd]
  rw [memoryStage_doubleword hm]
  refine ⟨fun hpolicy hfill => ?_, fun victimPa rest hpolicy hevict hin hl => ?_,
    fun rest hpolicy hfill hin => ⟨fun hl => ?_, fun hl => ?_⟩⟩
  · obtain ⟨issued, haccess⟩ := dataAccess_of_fillsWay hfill _ hal pc fun _ _ => .retire pc none 0#64
    obtain ⟨victims, draws, rfl⟩ := eq_of_fillsWay_or_writesBack (.inl hfill)
    rw [haccess, fillStep, installStore_writeBack (by exact beq_iff_eq.2 hpolicy) hpa (by exact hway)]
    exact ⟨_, _, rfl, ⟨rfl, hstored⟩, rfl, rfl, rfl, rfl, rfl, rfl⟩
  · obtain ⟨issued, haccess⟩ := dataAccess_of_writesBack hevict _ hal pc fun _ _ => .retire pc none 0#64
    obtain ⟨victims, draws, rfl⟩ := eq_of_fillsWay_or_writesBack (.inr ⟨victimPa, hevict⟩)
    rw [haccess, evictStep_doubleword_answered (by exact beq_iff_eq.2 hpolicy) hpa (by exact hway) (by exact hl)
      (by exact hin)]
    exact ⟨_, _, rfl, ⟨rfl, hstored⟩, rfl, rfl, rfl, rfl, rfl, rfl⟩
  all_goals
    have hwb : s.writeBack = false := by simp [State.writeBack, hpolicy]
    obtain ⟨issued, haccess⟩ := dataAccess_of_fillsWay hfill _ hal pc fun _ _ => .retire pc none 0#64
    obtain ⟨victims, draws, rfl⟩ := eq_of_fillsWay_or_writesBack (.inl hfill)
    rw [haccess, fillStep, installStore_writeThrough (by exact hwb) hpa (by exact hway) (by exact hl) (by exact hin)]
  · exact ⟨_, _, rfl, ⟨rfl, hstored⟩, rfl, rfl, rfl, rfl, rfl, rfl⟩
  · exact ⟨_, rfl, ⟨rfl, fun a => contains_storedAdd _ _ _ _⟩, rfl, rfl, rfl, rfl, rfl, rfl⟩

end Sys2Proof.Machine

namespace Sys2Proof.Machine

/-! ## The bytes of the backing store and of `STORED` (R72, R110) -/

section
variable {s t u : State} {base : Nat} {data : List (Option Byte)}

/-- A line agrees with the backing store off `STORED`, byte for byte. -/
theorem unstoredMatch_iff : unstoredMatch s base data = true ↔
    ∀ k < data.length, s.stored.contains (base + k) = true ∨ data.getD k none = s.pmem.read (base + k) := by
  induction data generalizing base with
  | nil => simp [unstoredMatch]
  | cons b bs ih =>
    rw [unstoredMatch, Bool.and_eq_true, Bool.or_eq_true, beq_iff_eq, ih]
    constructor
    · rintro ⟨hb, hbs⟩ k hk
      cases k with
      | zero => exact hb
      | succ k => simpa [Nat.add_assoc, Nat.add_comm 1] using hbs k (by simpa using hk)
    · intro h
      refine ⟨h 0 (by simp), fun k hk => ?_⟩
      simpa [Nat.add_assoc, Nat.add_comm 1] using h (k + 1) (by simpa using hk)

/-- A line read from the backing store agrees with it. -/
theorem unstoredMatch_readBytes (s : State) (base n : Nat) : unstoredMatch s base (s.pmem.readBytes base n) = true := by
  have hlen := Memory.length_readBytes s.pmem base n
  exact unstoredMatch_iff.2 fun k hk => .inr ((eq_readBytes_iff hlen).1 rfl k (hlen ▸ hk))

/-- `t` follows `s` when `STORED` has only grown, and the backing store has changed only there (R72). -/
structure StoredFollows (s t : State) : Prop where
  grows : ∀ a, s.stored.contains a = true → t.stored.contains a = true
  pmem : ∀ a, t.pmem.read a ≠ s.pmem.read a → t.stored.contains a = true

theorem StoredFollows.of_eq (hs : t.stored = s.stored) (hm : t.pmem = s.pmem) : StoredFollows s t :=
  ⟨fun a ha => hs ▸ ha, fun a ha => absurd (by rw [hm]) ha⟩

theorem StoredFollows.trans (h : StoredFollows s t) (k : StoredFollows t u) : StoredFollows s u := by
  refine ⟨fun a ha => k.grows a (h.grows a ha), fun a ha => ?_⟩
  by_cases hu : u.pmem.read a = t.pmem.read a
  · exact k.grows a (h.pmem a (hu ▸ ha))
  · exact k.pmem a hu

/-- A line goes on agreeing with the backing store off `STORED`. -/
theorem StoredFollows.unstoredMatch (h : StoredFollows s t) (hmatch : unstoredMatch s base data = true) :
    unstoredMatch t base data = true := by
  rw [unstoredMatch_iff] at hmatch ⊢
  intro k hk
  by_cases hm : t.pmem.read (base + k) = s.pmem.read (base + k)
  · exact (hmatch k hk).imp (h.grows _) fun hd => hd.trans hm.symm
  · exact .inl (h.pmem _ hm)

/-- The part of the structural invariant that speaks of `STORED`, on the data side. -/
structure BytesInv (s : State) : Prop where
  rising : risingNats s.stored = true
  bounded : s.memoryBounded = true
  lines : ∀ index way l, s.dcache.row index way = some l → l.valid = true →
    unstoredMatch s (l.address Config.dline s.params.dcacheRows index) l.data = true

theorem Inv.bytesInv (h : Inv s) : BytesInv s := by
  obtain ⟨hmem, -⟩ := h
  simp only [State.memoryInv, Bool.and_eq_true] at hmem
  obtain ⟨⟨⟨⟨⟨⟨⟨⟨⟨⟨⟨⟨⟨⟨-, -⟩, hbounded⟩, hrising⟩, -⟩, -⟩, -⟩, -⟩, -⟩, -⟩, -⟩, hlines⟩, -⟩, -⟩, -⟩ := hmem
  exact ⟨hrising, hbounded, fun index way l hl hv => Cache.allValid_iff.1 hlines index way l hl hv⟩

/-- The bytes `pa, …, pa + n - 1`. -/
def bytesAt (pa : PAddr) (n : Nat) (a : Nat) : Bool := decide (pa.toNat ≤ a) && decide (a < pa.toNat + n)

/-- No byte. -/
def noBytes (_ : Nat) : Bool := false

/-- A part of a cycle that keeps the bytes' invariant, adds exactly the bytes `grown` to `STORED`, and changes the backing
store only there (R72). -/
structure BytesTo (s t : State) (grown : Nat → Bool) : Prop where
  inv : BytesInv t
  stored : ∀ a, t.stored.contains a = (s.stored.contains a || grown a)
  pmem : ∀ a, t.pmem.read a ≠ s.pmem.read a → t.stored.contains a = true

variable {grown grown' : Nat → Bool}

theorem BytesTo.follows (h : BytesTo s t grown) : StoredFollows s t :=
  ⟨fun a ha => by rw [h.stored a, ha, Bool.true_or], h.pmem⟩

/-- The invariant speaks of the data cache, the backing store, `STORED` and the parameters. -/
theorem BytesInv.congr (h : BytesInv s) (hc : t.dcache = s.dcache) (hm : t.pmem = s.pmem) (hp : t.params = s.params)
    (hs : t.stored = s.stored) : BytesInv t where
  rising := hs ▸ h.rising
  bounded := by
    have hb := h.bounded
    unfold State.memoryBounded at hb ⊢
    rwa [hm, hp]
  lines := fun index way l hl hv => by
    rw [hc] at hl
    rw [hp]
    exact (StoredFollows.of_eq hs hm).unstoredMatch (h.lines index way l hl hv)

theorem BytesTo.of_eq (h : BytesInv s) (hc : t.dcache = s.dcache) (hm : t.pmem = s.pmem) (hp : t.params = s.params)
    (hs : t.stored = s.stored) : BytesTo s t noBytes where
  inv := h.congr hc hm hp hs
  stored := fun a => by rw [hs, noBytes, Bool.or_false]
  pmem := (StoredFollows.of_eq hs hm).pmem

theorem BytesTo.refl (h : BytesInv s) : BytesTo s s noBytes := .of_eq h rfl rfl rfl rfl

theorem BytesTo.of_noBytes (h : BytesTo s t noBytes) (k : BytesTo t u grown) : BytesTo s u grown where
  inv := k.inv
  stored := fun a => by rw [k.stored, h.stored, noBytes, Bool.or_false]
  pmem := (h.follows.trans k.follows).pmem

theorem BytesTo.then_noBytes (h : BytesTo s t grown) (k : BytesTo t u noBytes) : BytesTo s u grown where
  inv := k.inv
  stored := fun a => by rw [k.stored, h.stored, noBytes, Bool.or_false]
  pmem := (h.follows.trans k.follows).pmem

/-- Bytes added twice are added once. -/
theorem BytesTo.twice (h : BytesTo s t grown) (k : BytesTo t u grown) : BytesTo s u grown where
  inv := k.inv
  stored := fun a => by rw [k.stored, h.stored, Bool.or_assoc, Bool.or_self]
  pmem := (h.follows.trans k.follows).pmem

theorem State.memoryBounded_writeBytes (h : s.memoryBounded = true) (hp : t.params = s.params) {pa : Nat}
    (hfit : pa + data.length ≤ s.params.pmemSize) (hm : t.pmem = s.pmem.writeBytes pa data) : t.memoryBounded = true := by
  simp only [State.memoryBounded, List.all_eq_true, decide_eq_true_eq] at h ⊢
  rw [hm, hp]
  exact Memory.bound_writeBytes _ _ _ _ hfit h

/-! ### The ways a cycle changes a line -/

variable {exempt : Nat → Prop} {pa : PAddr} {way index : Nat} {l : Line}

/-- Putting a line of `pa` into its set keeps the invariant when the line agrees with the backing store off `STORED`. -/
theorem Coherent.bytes_puts (h : Coherent s exempt) (hb : BytesInv s) (hl : PutsLine s t pa way l)
    (hrising : risingNats t.stored = true) (hbounded : t.memoryBounded = true) (hfollows : StoredFollows s t)
    (hline : unstoredMatch t (lineBase Config.dline pa) l.data = true) : BytesInv t where
  rising := hrising
  bounded := hbounded
  lines := fun i w k hk hv => by
    rw [hl.params]
    obtain ⟨rfl, -, rfl⟩ | ⟨hk, -⟩ := h.row_cases_of_puts hl hk hv
    · rwa [(Line.address_eq_lineBase_iff h.rows_pos (h.dIndex_lt pa) _ pa).2 ⟨rfl, hl.tag⟩]
    · exact hfollows.unstoredMatch (hb.lines i w k hk hv)

/-- A write-back changes the backing store only at bytes of `STORED`: the victim agrees with it elsewhere (R72, R99). -/
theorem Coherent.bytes_evicts (h : Coherent s exempt) (hb : BytesInv s) (hl : EvictsLine s t index way l)
    (hs : t.stored = s.stored)
    (hfit : l.address Config.dline s.params.dcacheRows index + l.data.length ≤ s.params.pmemSize) :
    BytesTo s t noBytes := by
  have hsize : l.data.length = 8 := h.lineSize _ _ _ hl.row
  have hmatch := unstoredMatch_iff.1 (hb.lines _ _ _ hl.row hl.valid)
  have hpmem : ∀ a, t.pmem.read a ≠ s.pmem.read a → t.stored.contains a = true := by
    intro a ha
    rw [h.read_of_evicts hl] at ha
    split at ha
    · next hbase =>
      have hbyte := hmatch (a % 8) (hsize ▸ Nat.mod_lt _ (by omega))
      rw [← hbase, show a / 8 * 8 + a % 8 = a by omega] at hbyte
      exact hs ▸ hbyte.resolve_right ha
    · exact absurd rfl ha
  have hfollows : StoredFollows s t := ⟨fun a ha => hs ▸ ha, hpmem⟩
  refine ⟨⟨hs ▸ hb.rising, State.memoryBounded_writeBytes hb.bounded hl.params hfit hl.pmem, fun i w k hk hv => ?_⟩,
    fun a => by rw [hs, noBytes, Bool.or_false], hpmem⟩
  rw [hl.params]
  exact hfollows.unstoredMatch (hb.lines i w k ((h.row_valid_of_evicts hl).1 ⟨hk, hv⟩).1 hv)

/-- The fill's line is the backing store's (R101). -/
theorem Coherent.bytes_fill (h : Coherent s exempt) (hb : BytesInv s)
    (hl : PutsLine s t pa way
      { valid := true, tag := s.dTag pa, data := s.pmem.readBytes (lineBase Config.dline pa) 8, dirty := false })
    (hm : t.pmem = s.pmem) (hs : t.stored = s.stored) : BytesTo s t noBytes := by
  have hfollows : StoredFollows s t := .of_eq hs hm
  refine ⟨h.bytes_puts hb hl (hs ▸ hb.rising) ?_ hfollows
    (hfollows.unstoredMatch (unstoredMatch_readBytes s _ 8)), fun a => by rw [hs, noBytes, Bool.or_false], hfollows.pmem⟩
  have hbound := hb.bounded
  unfold State.memoryBounded at hbound ⊢
  rwa [hm, hl.params]

variable {size : AccessSize} {value : Word}

/-- Changes of the backing store inside a store's bytes, which join `STORED`. -/
theorem StoredFollows.of_storedAdd {n : Nat} (hs : t.stored = storedAdd s.stored pa.toNat n)
    (hm : ∀ a, ¬(pa.toNat ≤ a ∧ a < pa.toNat + n) → t.pmem.read a = s.pmem.read a) : StoredFollows s t := by
  refine ⟨fun a ha => by rw [hs, contains_storedAdd, ha, Bool.true_or], fun a ha => ?_⟩
  have hin := not_imp_comm.1 (hm a) ha
  rw [hs, contains_storedAdd, decide_eq_true hin.1, decide_eq_true hin.2, Bool.and_self, Bool.or_true]

/-- A store mutates its line at bytes that join `STORED` (R72, R103, R104). -/
theorem Coherent.bytes_store (h : Coherent s exempt) (hb : BytesInv s) (hl : s.holds pa way (s.dLine pa way))
    (hfit : pa.toNat % 8 + size.bytes ≤ 8) (hputs : PutsLine s t pa way (s.storedLine pa way size value))
    (hs : t.stored = storedAdd s.stored pa.toNat size.bytes) (hbounded : t.memoryBounded = true)
    (hm : ∀ a, ¬(pa.toNat ≤ a ∧ a < pa.toNat + size.bytes) → t.pmem.read a = s.pmem.read a) :
    BytesTo s t (bytesAt pa size.bytes) := by
  have hfollows : StoredFollows s t := .of_storedAdd hs hm
  refine ⟨h.bytes_puts hb hputs (hs ▸ risingNats_storedAdd _ _ _ hb.rising) hbounded hfollows ?_,
    fun a => by rw [hs, contains_storedAdd, bytesAt], hfollows.pmem⟩
  have hold := hb.lines _ _ _ hl.1 hl.2.1
  rw [(h.address_eq_iff hl.1 pa).2 ⟨rfl, hl.2.2⟩] at hold
  rw [unstoredMatch_iff]
  intro k hk
  rw [h.getD_storedLine hl hfit]
  have hbase : lineBase Config.dline pa = pa.toNat / 8 * 8 := rfl
  split
  · next hin =>
    refine .inl ?_
    simp only [hs, contains_storedAdd, hbase, Bool.or_eq_true, Bool.and_eq_true, decide_eq_true_eq]
    omega
  · exact unstoredMatch_iff.1 (hfollows.unstoredMatch hold) k (by rw [h.lineSize _ _ _ hl.1, ← hputs.lineSize]; exact hk)

/-- The line an 8-byte store makes of its value is of bytes that join `STORED` (R72, R105). -/
theorem Coherent.bytes_install (h : Coherent s exempt) (hb : BytesInv s) (hfit : pa.toNat % 8 + 8 ≤ 8)
    (hputs : PutsLine s t pa way { valid := true, tag := s.dTag pa, data := knownBytes .b8 value, dirty := false })
    (hs : t.stored = storedAdd s.stored pa.toNat 8) (hm : t.pmem = s.pmem) : BytesTo s t (bytesAt pa 8) := by
  have hfollows : StoredFollows s t := .of_storedAdd hs fun a _ => by rw [hm]
  refine ⟨h.bytes_puts hb hputs (hs ▸ risingNats_storedAdd _ _ _ hb.rising) ?_ hfollows ?_,
    fun a => by rw [hs, contains_storedAdd, bytesAt], hfollows.pmem⟩
  · have hbound := hb.bounded
    unfold State.memoryBounded at hbound ⊢
    rwa [hm, hputs.params]
  · rw [unstoredMatch_iff]
    intro k hk
    have hbase : lineBase Config.dline pa = pa.toNat / 8 * 8 := rfl
    rw [length_knownBytes] at hk
    simp only [AccessSize.bytes] at hk
    refine .inl ?_
    simp only [hs, contains_storedAdd, hbase, Bool.or_eq_true, Bool.and_eq_true, decide_eq_true_eq]
    omega

end

/-! ## A cycle of the data cache, and the bytes it stores (R72) -/

/-- The bytes a data access adds to `STORED`. -/
def DataOp.grown (pa : PAddr) : DataOp → Nat → Bool
  | .load _ => noBytes
  | .store size _ => bytesAt pa size.bytes

/-- A cycle of the data side that adds the access's bytes to `STORED` when it serves it, and none while the access goes on
but by the early install of assumption 10. -/
def DataResult.Grows (s : State) (op : DataOp) (pa : PAddr) : DataResult → Prop
  | .served t _ _ => BytesTo s t (op.grown pa)
  | .stall t => BytesTo s t noBytes ∨
      ∃ value issued, op = .store .b8 value ∧ t.ms = .dWriteThrough pa issued ∧ BytesTo s t (bytesAt pa 8)
  | .stop _ => True

section
variable {s t : State} {op : DataOp} {pa : PAddr} {way : Nat} {exempt : Nat → Prop}

theorem DataResult.Grows.of_noBytes {r : DataResult} (hst : BytesTo s t noBytes) (h : r.Grows t op pa) :
    r.Grows s op pa := by
  cases r with
  | stop x => trivial
  | stall u =>
    exact h.imp hst.of_noBytes fun ⟨value, issued, hop, hms, hto⟩ => ⟨value, issued, hop, hms, hst.of_noBytes hto⟩
  | served u bytes spent => exact BytesTo.of_noBytes hst h

theorem writeThroughStep_grows {size : AccessSize} {value : Word} (h : Coherent s exempt) (hb : BytesInv s)
    (hfit : pa.toNat % 8 + size.bytes ≤ 8) (hl : s.holds pa way (s.dLine pa way)) (issued spent : Bool) :
    (writeThroughStep s pa way size value issued spent).Grows s (.store size value) pa := by
  unfold writeThroughStep
  cases spent
  case true => exact .inl (.of_eq hb rfl rfl rfl rfl)
  obtain ⟨_, hw⟩ | ⟨hbound, latency, hw | hw⟩ := physWrite_cases s issued pa.toNat (knownBytes size value)
  · rw [if_neg Bool.false_ne_true, hw]; trivial
  · rw [if_neg Bool.false_ne_true, hw]
    exact .inl (.of_eq hb rfl rfl rfl rfl)
  · rw [if_neg Bool.false_ne_true, hw]
    set t : State := { mutateLine { s with latency := latency, calls := s.calls + 1,
                                           pmem := s.pmem.writeBytes pa.toNat (knownBytes size value) } pa way size value
                       with ms := .idle }
    have hread : ∀ a, ¬(pa.toNat ≤ a ∧ a < pa.toNat + size.bytes) → t.pmem.read a = s.pmem.read a := by
      intro a ha
      refine (Memory.read_writeBytes _ _ _ _ h.pmem_wf).trans ?_
      rw [length_knownBytes, if_neg ha]
    have hputs := h.puts_storedLine (t := t) hl hfit rfl rfl (Memory.wf_writeBytes _ _ _ h.pmem_wf)
      fun a ha => hread a (by omega)
    exact h.bytes_store hb hl hfit hputs rfl (State.memoryBounded_writeBytes hb.bounded rfl hbound rfl) hread

/-- A hit adds the store's bytes in the cycle it is served. -/
theorem serveHit_grows (h : Coherent s exempt) (hb : BytesInv s) (hfit : pa.toNat % 8 + op.size.bytes ≤ 8)
    (hl : s.holds pa way (s.dLine pa way)) (spent : Bool) : (serveHit s op pa way spent).Grows s op pa := by
  cases op with
  | load size => exact BytesTo.of_eq hb rfl rfl rfl rfl
  | store size value =>
    cases hwb : s.writeBack with
    | true =>
      rw [serveHit_writeBack hwb]
      have hputs := h.puts_storedLine (t := { mutateLine s pa way size value with ms := .idle }) hl hfit rfl rfl
        h.pmem_wf fun _ _ => rfl
      exact h.bytes_store hb hl hfit hputs rfl hb.bounded fun _ _ => rfl
    | false =>
      unfold serveHit
      rw [hwb]
      exact writeThroughStep_grows h hb hfit hl _ _

theorem installStore_grows {value : Word} (h : Coherent s fun _ => False) (hb : BytesInv s)
    (hfit : pa.toNat % 8 + 8 ≤ 8) (hmiss : s.dMisses pa) (hw : way < s.params.dcacheWays)
    (hv : ((s.dLine pa way).valid && (s.dLine pa way).dirty) = false) (spent : Bool) :
    (installStore s pa way value spent).Grows s (.store .b8 value) pa := by
  unfold installStore
  set t := (s.setDLine pa way { valid := true, tag := s.dTag pa, data := knownBytes .b8 value, dirty := false }).markStored
    pa.toNat 8
  have hputs : PutsLine s t pa way _ := h.puts_fresh hmiss hw hv (length_knownBytes .b8 value) rfl rfl rfl
  have hto : BytesTo s t (bytesAt pa 8) := h.bytes_install hb hfit hputs rfl rfl
  obtain ⟨hcoh, -⟩ := h.install hfit hputs
  have hserve := serveHit_grows (op := .store .b8 value) hcoh hto.inv hfit (h.holds_of_puts hputs) spent
  cases hr : serveHit t (.store .b8 value) pa way spent with
  | stop x => trivial
  | served u bytes sp =>
    rw [hr] at hserve
    exact hto.twice hserve
  | stall u =>
    rw [hr] at hserve
    obtain ⟨issued, hms⟩ := serveHit_stall hr
    refine .inr ⟨value, issued, rfl, hms, ?_⟩
    obtain hnone | ⟨_, _, _, _, hsome⟩ := hserve
    · exact hto.then_noBytes hnone
    · exact hto.twice hsome

theorem fillStep_grows (h : Coherent s fun _ => False) (hb : BytesInv s) (hfit : pa.toNat % 8 + op.size.bytes ≤ 8)
    (hmiss : s.dMisses pa) (hw : way < s.params.dcacheWays)
    (hv : ((s.dLine pa way).valid && (s.dLine pa way).dirty) = false) (issued : Bool) :
    (fillStep s op pa way issued).Grows s op pa := by
  obtain ⟨value, rfl, hf⟩ | ⟨_, hf⟩ := fillStep_cases s op pa way issued
  · rw [hf]; exact installStore_grows h hb hfit hmiss hw hv false
  rw [hf]
  obtain ⟨_, hr⟩ | ⟨_, latency, hr | hr⟩ := physRead_cases s s.pmem issued (lineBase Config.dline pa) Config.dline
  · rw [hr]; trivial
  · rw [hr]; exact .inl (.of_eq hb rfl rfl rfl rfl)
  · rw [hr]
    dsimp only
    set t := ({ s with latency := latency, calls := s.calls + 1 } : State).setDLine pa way
      { valid := true, tag := s.dTag pa, data := s.pmem.readBytes (lineBase Config.dline pa) Config.dline, dirty := false }
    have hputs : PutsLine s t pa way _ :=
      h.puts_fresh hmiss hw hv (Memory.length_readBytes s.pmem (lineBase Config.dline pa) 8) rfl rfl rfl
    have hto : BytesTo s t noBytes := h.bytes_fill hb hputs rfl rfl
    obtain ⟨hcoh, -⟩ := h.fill (exempt' := fun _ => False) hmiss hputs rfl
    exact .of_noBytes hto (serveHit_grows hcoh hto.inv hfit (h.holds_of_puts hputs) true)

theorem evictStep_grows (h : Coherent s fun _ => False) (hb : BytesInv s) (hfit : pa.toNat % 8 + op.size.bytes ≤ 8)
    (hmiss : s.dMisses pa) (hw : way < s.params.dcacheWays) (hv : (s.dLine pa way).valid = true) {victimPa : PAddr}
    (hva : victimPa.toNat = (s.dLine pa way).address Config.dline s.params.dcacheRows (s.dIndex pa)) (issued : Bool) :
    (evictStep s op pa way victimPa issued).Grows s op pa := by
  unfold evictStep
  obtain ⟨_, hr⟩ | ⟨hbound, latency, hr | hr⟩ := physWrite_cases s issued victimPa.toNat (s.dLine pa way).data
  · rw [hr]; trivial
  · rw [hr]; exact .inl (.of_eq hb rfl rfl rfl rfl)
  · rw [hr]
    dsimp only
    set t := ({ s with latency := latency, calls := s.calls + 1,
                       pmem := s.pmem.writeBytes victimPa.toNat (s.dLine pa way).data } : State).setDLine pa way
      { s.dLine pa way with valid := false, dirty := false }
    have hevicts : EvictsLine s t (s.dIndex pa) way (s.dLine pa way) :=
      ⟨rfl, h.row_dLine pa hw, hv, rfl, by rw [← hva]; rfl⟩
    have hto : BytesTo s t noBytes := h.bytes_evicts hb hevicts rfl (hva ▸ hbound)
    have hmiss' : t.dMisses pa := State.dMisses_iff.2 fun w k hk =>
      State.dMisses_iff.1 hmiss w k ((h.holds_of_evicts hevicts pa w k).1 hk).1
    have hline : t.dLine pa way = { s.dLine pa way with valid := false, dirty := false } :=
      Cache.line_setLine (hw.trans_eq (h.length_ways pa).symm) _ _
    have hv' : ((t.dLine pa way).valid && (t.dLine pa way).dirty) = false := by rw [hline]; rfl
    split
    · exact .of_noBytes hto (installStore_grows (h.evicts hevicts) hto.inv hfit hmiss' hw hv' true)
    · exact .inl (hto.then_noBytes (.of_eq hto.inv rfl rfl rfl rfl))

/-- The way a miss picks is a way of the set. -/
theorem Coherent.victim_lt (h : Coherent s exempt) (pa : PAddr) {way : Nat} {s' : State}
    (hp : (way, s') = pickVictim s (victimCandidates s.writeBack (s.dcache.ways (s.dIndex pa)))) :
    way < s.params.dcacheWays := by
  have hlen := h.length_ways pa
  have hmem := (pickVictim_cases s _ (victimCandidates_ne_nil (writeBack := s.writeBack) (hlen ▸ h.ways_pos))).1
  rw [← hp] at hmem
  exact hlen ▸ mem_victimCandidates hmem

theorem startMiss_grows (h : Coherent s fun _ => False) (hb : BytesInv s) (hfit : pa.toNat % 8 + op.size.bytes ≤ 8)
    (hmiss : s.dMisses pa) : (startMiss s op pa).Grows s op pa := by
  obtain ⟨way, s', hp, hcase⟩ := startMiss_cases s op pa
  have hw : way < s.params.dcacheWays := h.victim_lt pa hp
  obtain ⟨victims, draws, rfl⟩ := pickVictim_eq hp.symm
  refine .of_noBytes (t := { s with victims := victims, draws := draws }) (.of_eq hb rfl rfl rfl rfl) ?_
  have h' : Coherent { s with victims := victims, draws := draws } fun _ => False := h.congr rfl rfl rfl
  have hb' : BytesInv { s with victims := victims, draws := draws } := hb.congr rfl rfl rfl rfl
  obtain ⟨hv, hm⟩ | ⟨hv, hm⟩ := hcase
  · rw [hm]
    simp only [Bool.and_eq_true] at hv
    refine evictStep_grows h' hb' hfit hmiss hw hv.1.2 ?_ false
    have hlt := h'.addressed _ _ _ (h'.row_dLine pa hw) hv.1.2
    rw [rowAddress, BitVec.toNat_ofNat]
    exact Nat.mod_eq_of_lt hlt
  · rw [hm]
    refine fillStep_grows h' hb' hfit hmiss hw ?_ false
    cases hwb : s.writeBack
    · rw [h'.undirtied hwb _ _ _ (h'.row_dLine pa hw), Bool.and_false]
    · rw [show State.writeBack { s with victims := victims, draws := draws } = true from hwb, Bool.true_and] at hv
      exact hv

theorem dcacheAccess_grows (h : DataInv s) (hb : BytesInv s) (hop : s.asks op) (hacc : s.accessAt pa = true)
    (hpa : ∀ q, s.ms.address = some q → q = pa) (spent : Bool) : (dcacheAccess s op pa spent).Grows s op pa := by
  have hcoh := h.coherent_at hop hpa
  have hfit := State.fits_of_accessAt hacc hop
  have hstatus := h.status
  unfold dcacheAccess
  split
  · next way hw => exact serveHit_grows hcoh hb hfit (State.holds_of_hitWay hw) spent
  · next hmiss =>
    have hclean : Coherent s fun _ => False := hcoh.of_dMisses (fun _ ha => ha.2) hmiss _
    split
    · exact .inl (.of_eq hb rfl rfl rfl rfl)
    · unfold State.statusOfM at hstatus
      cases hms : s.ms with
      | dEvict q way victimPa issued =>
        rw [hms] at hstatus hpa
        obtain rfl := hpa q rfl
        simp only [Bool.and_eq_true, decide_eq_true_eq, beq_iff_eq] at hstatus
        obtain ⟨⟨⟨⟨⟨-, hw⟩, -⟩, hv⟩, -⟩, hva⟩ := hstatus
        exact evictStep_grows hclean hb hfit hmiss hw hv hva issued
      | dFill q way issued =>
        rw [hms] at hstatus hpa
        obtain rfl := hpa q rfl
        simp only [Bool.and_eq_true, decide_eq_true_eq, Bool.not_eq_true'] at hstatus
        obtain ⟨⟨-, hw⟩, hv⟩ := hstatus
        exact fillStep_grows hclean hb hfit hmiss hw hv issued
      | idle => exact startMiss_grows hclean hb hfit hmiss
      | dTlb step issued => exact startMiss_grows hclean hb hfit hmiss
      | dDeferred q => exact startMiss_grows hclean hb hfit hmiss
      | dWriteThrough q issued => exact startMiss_grows hclean hb hfit hmiss

end

/-! ## A cycle of the memory stage, and the bytes it stores -/

/-- A cycle of the memory stage adds to `STORED` the bytes of the store it completes, and otherwise none but those of the
early install of assumption 10. -/
def MemResult.Grows (s : State) : MemResult → Prop
  | .out t _ _ =>
    (∃ pa size value, s.asks (.store size value) ∧ s.dataAddress = some pa ∧ BytesTo s t (bytesAt pa size.bytes)) ∨
      (∀ pc va size value, s.m ≠ .store pc va size value) ∧ BytesTo s t noBytes
  | .stall t => BytesTo s t noBytes ∨
      ∃ pc va value pa issued, s.m = .store pc va .b8 value ∧ t.ms = .dWriteThrough pa issued ∧ BytesTo s t (bytesAt pa 8)
  | .halt t _ _ _ => BytesTo s t noBytes
  | .stop _ => True

section
variable {s t : State} {op : DataOp} {pa : PAddr} {mout : PAddr → List (Option Byte) → WLatch}

theorem DataResult.Grows.toMem {r : DataResult} (h : r.Grows s op pa) (hop : s.asks op) (hpa : s.dataAddress = some pa) :
    (r.toMem (mout pa)).Grows s := by
  cases r with
  | stop x => trivial
  | stall t =>
    refine Or.imp_right ?_ h
    rintro ⟨value, issued, rfl, hms, hto⟩
    obtain ⟨pc, va, hm⟩ := hop
    exact ⟨pc, va, value, pa, issued, hm, hms, hto⟩
  | served t bytes spent =>
    cases op with
    | load size =>
      obtain ⟨pc, rd, va, signed, hm⟩ := hop
      exact .inr ⟨by simp [hm], h⟩
    | store size value => exact .inl ⟨pa, size, value, hop, hpa, h⟩

theorem translateAndAccess_grows (h : DataInv s) (hb : BytesInv s) (hop : s.asks op) {va : Word}
    (hva : s.m.access = some (va, op.size)) (hal : misalignedData va op.size = false) (hms : s.ms.address = none)
    {walk : Option (WalkStep × Bool)} (haddr : s.dataAddress = (translate .data s.pmem false walk va s).address)
    (pc : Word) : (translateAndAccess s op pc va walk mout).Grows s := by
  have hacc : ∀ pa, samePageOffset pa va = true → s.accessAt pa = true := by
    intro pa hpa
    simp [State.accessAt, hva, hpa, hal]
  have hnone : ∀ pa q, s.ms.address = some q → q = pa := fun pa q hq => by rw [hms] at hq; cases hq
  unfold translateAndAccess
  obtain ⟨pa, ht, hpa⟩ | ⟨x, ht⟩ | ⟨dtlb, latency, calls, ⟨pa, ht, hpa⟩ | ⟨step, issued, ht⟩ | ht⟩ :=
    translate_data_cases s.pmem false walk va s
  all_goals rw [ht] at haddr ⊢
  · exact (dcacheAccess_grows h hb hop (hacc pa hpa) (hnone pa) false).toMem hop haddr
  · trivial
  · have h' : DataInv { s with dtlb := dtlb, latency := latency, calls := calls } := h.congr rfl rfl rfl rfl (.inl rfl)
    have hto : BytesTo s { s with dtlb := dtlb, latency := latency, calls := calls } noBytes := .of_eq hb rfl rfl rfl rfl
    have hgrows := dcacheAccess_grows h' hto.inv (hop.congr rfl) (hacc pa hpa) (hnone pa) true
    exact (DataResult.Grows.of_noBytes hto hgrows).toMem hop haddr
  · exact .inl (.of_eq hb rfl rfl rfl rfl)
  · exact BytesTo.of_eq hb rfl rfl rfl rfl

theorem dataAccess_grows (h : DataInv s) (hb : BytesInv s) (hop : s.asks op) {va : Word}
    (hva : s.m.access = some (va, op.size)) (pc : Word) : (dataAccess s op pc va mout).Grows s := by
  have cached : ∀ q, s.ms.address = some q → s.dataAddress = some q →
      ((dcacheAccess s op q false).toMem (mout q)).Grows s := fun q hq haddr => (dcacheAccess_grows h hb hop (State.accessAt_of_status h.status hq)
      (fun p hp => Option.some.inj (hp.symm.trans hq)) false).toMem hop haddr
  unfold dataAccess
  split
  · exact BytesTo.refl hb
  · next hmis =>
    have hal : misalignedData va op.size = false := by simpa using hmis
    cases hms : s.ms with
    | idle =>
      exact translateAndAccess_grows h hb hop hva hal (by rw [hms]; rfl) (by simp [State.dataAddress, hva, hms]) pc
    | dTlb step issued =>
      exact translateAndAccess_grows h hb hop hva hal (by rw [hms]; rfl) (by simp [State.dataAddress, hva, hms]) pc
    | dDeferred q => exact cached q (by rw [hms]; rfl) (by simp [State.dataAddress, hva, hms])
    | dEvict q way victimPa issued => exact cached q (by rw [hms]; rfl) (by simp [State.dataAddress, hva, hms])
    | dFill q way issued => exact cached q (by rw [hms]; rfl) (by simp [State.dataAddress, hva, hms])
    | dWriteThrough q issued => exact cached q (by rw [hms]; rfl) (by simp [State.dataAddress, hva, hms])

/-- The memory stage keeps the bytes' invariant, whatever is in `M`. -/
theorem memoryStage_grows (h : DataInv s) (hb : BytesInv s) : (memoryStage s).Grows s := by
  cases hacc : s.m.access with
  | none =>
    obtain ⟨w, hr⟩ | ⟨reason, pc, va, hr⟩ := memoryStage_noAccess hacc
    · rw [hr]
      refine .inr ⟨fun pc va size value hm => ?_, .of_eq hb rfl rfl rfl rfl⟩
      rw [hm] at hacc
      cases hacc
    · rw [hr]; exact BytesTo.refl hb
  | some access =>
    unfold memoryStage
    cases hm : s.m with
    | load pc rd va size signed =>
      exact dataAccess_grows (op := .load size) h hb ⟨pc, rd, va, signed, hm⟩ (by rw [hm]; rfl) pc
    | store pc va size value => exact dataAccess_grows (op := .store size value) h hb ⟨pc, va, hm⟩ (by rw [hm]; rfl) pc
    | bubble | reg | noEffect | token => rw [hm] at hacc; cases hacc

/-! ## A step, and the bytes it stores -/

/-- Execute, decode and fetch add nothing to `STORED`. -/
theorem advance_stored {start : State} {mout : WLatch} {spent : Bool} (h : advance start mout spent s = .next t) :
    t.stored = s.stored := by
  obtain ⟨s1, s2, hexec, hfetch, rfl⟩ := advance_next h
  obtain ⟨_, _, _, _, _, _, rfl⟩ := executeStage_changes hexec
  obtain ⟨_, _, _, _, _, _, _, _, _, rfl⟩ := fetchStage_changes hfetch
  obtain ⟨_, hd⟩ | ⟨_, _, _, hd⟩ | ⟨_, _, _, _, ⟨_, _, _, _, hd⟩ | ⟨_, hd⟩⟩ := decodeStage_cases start.x mout
    { s with m := _, pc := _, fs := _, d := _, bp := _, log := _ }
  all_goals
    rw [hd]

theorem State.writeback_bytesTo (hb : BytesInv s) : BytesTo s s.writeback noBytes :=
  .of_eq hb s.writeback_sameDataSide.dcache s.writeback_sameDataSide.pmem s.writeback_sameDataSide.params (by simp)

/-- What a step adds to `STORED` (R72): the bytes of a completed store, and otherwise none but those of the early install of
assumption 10. -/
def State.Grows (s t : State) : Prop :=
  (∃ pa size value, s.storesAt pa size value ∧ BytesTo s t (bytesAt pa size.bytes)) ∨
    (∀ pa size value, ¬s.storesAt pa size value) ∧
      (BytesTo s t noBytes ∨
        ∃ pc va value pa issued, s.m = .store pc va .b8 value ∧ t.ms = .dWriteThrough pa issued ∧
          BytesTo s t (bytesAt pa 8))

theorem step_grows (h : DataInv s) (hb : BytesInv s) (hstep : step s = .next t) : s.Grows t := by
  have hwb := State.writeback_bytesTo hb
  have hgrows := memoryStage_grows h.writeback hwb.inv
  obtain ⟨hhalt, rfl⟩ | ⟨hrun, ⟨s1, reason, pc, va, hm, rfl⟩ | ⟨s1, hm, rfl⟩ | ⟨s1, mout, spent, hm, hadv⟩⟩ :=
    step_next hstep
  · refine .inr ⟨?_, .inl (.refl hb)⟩
    rintro pa size value ⟨⟨hrun, -⟩, -⟩
    rw [hhalt] at hrun
    cases hrun
  all_goals
    rw [hm] at hgrows
  · have hto : BytesTo s.writeback s1 noBytes := hgrows
    exact .inr ⟨State.not_storesAt_of_not_out (by simp [hm]),
      .inl ((hwb.of_noBytes hto).then_noBytes (.of_eq hto.inv rfl rfl rfl rfl))⟩
  · refine .inr ⟨State.not_storesAt_of_not_out (by simp [hm]), ?_⟩
    obtain hto | ⟨pc, va, value, pa, issued, hstore, hms, hto⟩ := hgrows
    · exact .inl ((hwb.of_noBytes hto).then_noBytes (.of_eq hto.inv rfl rfl rfl rfl))
    · exact .inr ⟨pc, va, value, pa, issued, s.writeback_m ▸ hstore, hms,
        (hwb.of_noBytes hto).then_noBytes (.of_eq hto.inv rfl rfl rfl rfl)⟩
  · obtain ⟨hside, -⟩ := advance_sameDataSide hadv
    have hlast : ∀ {u : State}, BytesInv s1 → BytesTo s1 t noBytes := fun hb1 =>
      .of_eq hb1 hside.dcache hside.pmem hside.params (advance_stored hadv)
    obtain ⟨pa, size, value, hasks, haddr, hto⟩ | ⟨hne, hto⟩ := hgrows
    · exact .inl ⟨pa, size, value, State.storesAt_iff.2 ⟨hrun, haddr, hasks, s1, mout, spent, hm⟩,
        (hwb.of_noBytes hto).then_noBytes (hlast (u := s1) hto.inv)⟩
    · exact .inr ⟨State.not_storesAt_of_not_store (by simpa using hne),
        .inl ((hwb.of_noBytes hto).then_noBytes (hlast (u := s1) hto.inv))⟩

/-- A step keeps the bytes' invariant, and changes the backing store only at bytes of `STORED` (R72). -/
theorem step_bytes (h : DataInv s) (hb : BytesInv s) (hstep : step s = .next t) : BytesInv t ∧ StoredFollows s t := by
  obtain ⟨_, _, _, -, hto⟩ | ⟨-, hto | ⟨_, _, _, _, _, -, -, hto⟩⟩ := step_grows h hb hstep <;>
    exact ⟨hto.inv, hto.follows⟩

/-- Under write-through an 8-byte store is the only one that waits with its write. -/
theorem State.writeBack_of_writeThrough {issued : Bool} (h : s.statusOfM = true) (hms : s.ms = .dWriteThrough pa issued) :
    s.writeBack = false := by
  simp only [State.statusOfM, hms, Bool.and_eq_true, Bool.not_eq_true'] at h
  exact h.1.1.2

/-- Under write-through, with no access in progress, the data side sees the backing store (R110). -/
theorem DataInv.viewByte_eq_pmem (h : DataInv s) (hwb : s.writeBack = false) (hidle : s.ms = .idle) (a : PAddr) :
    s.viewByte a = s.pmem.read a.toNat := by
  by_cases hmiss : s.dMisses a
  · exact State.viewByte_of_dMisses hmiss
  · rw [State.dMisses_iff] at hmiss
    push Not at hmiss
    obtain ⟨way, l, hl⟩ := hmiss
    have hcoh := h.coherent_of_address_none (by rw [hidle]; rfl)
    exact hcoh.viewByte_of_clean hl (hcoh.undirtied hwb _ _ _ hl.1) id

end

/-- Settles O46: `step_grows` gives the bytes of `STORED`, the coherence of the data side the view under write-through. -/
theorem backingStoreFollows : Obligations.BackingStoreFollows := by
  refine ⟨fun s t hinv hstep a => (step_bytes hinv.dataInv hinv.bytesInv hstep).2.pmem a, ?_, ?_,
    fun s hinv => hinv.dataInv.viewByte_eq_pmem⟩
  · intro s t hinv hstep pa size value hstore a
    obtain ⟨pa', size', value', hstore', hto⟩ | ⟨hnone, -⟩ := step_grows hinv.dataInv hinv.bytesInv hstep
    · obtain ⟨rfl, rfl, rfl⟩ := State.storesAt_unique hstore hstore'
      exact hto.stored a
    · exact absurd hstore (hnone pa size value)
  · intro s t hinv hstep hnone a
    obtain ⟨pa, size, value, hstore, -⟩ | ⟨-, hto | ⟨pc, va, value, pa, issued, hm, hms, hto⟩⟩ :=
      step_grows hinv.dataInv hinv.bytesInv hstep
    · exact absurd hstore (hnone pa size value)
    · exact .inl (by rw [hto.stored, noBytes, Bool.or_false])
    · have hpolicy : s.writeBack = false := by
        have ht := State.writeBack_of_writeThrough (step_keeps hinv.dataInv hstep).1.status hms
        rwa [State.writeBack, (step_ptbr_params hstep).2] at ht
      by_cases hin : pa.toNat ≤ a ∧ a < pa.toNat + 8
      · exact .inr ⟨hpolicy, pc, va, value, pa, issued, hm, hms, hin.1, hin.2, by rw [hto.stored]; simp [bytesAt, hin]⟩
      · exact .inl (by rw [hto.stored, bytesAt, ← Bool.decide_and, decide_eq_false hin, Bool.or_false])

end Sys2Proof.Machine

namespace Sys2Proof.Machine

/-! ## The page table while the program stores (R72, R83 to R87) -/

section
variable {s t : State} {mem : Memory} {base k n : Nat} {data : List (Option Byte)} {sp : BitVec 18} {va pc : Word}

theorem not_contains_of_untouched {stored : List Nat} {a : Nat} (h : storedTouches stored k n = false) (hk : k ≤ a)
    (hn : a < k + n) : stored.contains a = false := by
  simp only [storedTouches, List.any_eq_false, Bool.and_eq_true, decide_eq_true_eq] at h
  rw [← Bool.not_eq_true, List.contains_iff_mem]
  exact fun ha => h a ha ⟨hk, hn⟩

/-- Bytes that agree with the backing store off `STORED` are its own where no byte is in `STORED`. -/
theorem eq_readBytes_of_unstoredMatch (hlen : data.length = n) (hmatch : unstoredMatch s base data = true)
    (hfree : storedTouches s.stored base n = false) : data = s.pmem.readBytes base n := by
  refine (eq_readBytes_iff hlen).2 fun i hi => (unstoredMatch_iff.1 hmatch i (hlen ▸ hi)).resolve_left ?_
  rw [not_contains_of_untouched hfree (Nat.le_add_right _ _) (by omega)]
  exact Bool.false_ne_true

/-- `mem` is the backing store as it was when the cycle began: what has changed since is in `STORED` (R16, R72). -/
def State.beganWith (s : State) (mem : Memory) : Prop :=
  ∀ a, s.pmem.read a ≠ mem.read a → s.stored.contains a = true

theorem State.beganWith.unstoredMatch (h : s.beganWith mem) (base n : Nat) :
    unstoredMatch s base (mem.readBytes base n) = true := by
  have hlen := Memory.length_readBytes mem base n
  refine unstoredMatch_iff.2 fun i hi => ?_
  rw [(eq_readBytes_iff hlen).1 rfl i (hlen ▸ hi)]
  by_cases hm : s.pmem.read (base + i) = mem.read (base + i)
  · exact .inr hm.symm
  · exact .inl (h _ hm)

theorem State.beganWith.readBytes (h : s.beganWith mem) (hfree : storedTouches s.stored k n = false) :
    mem.readBytes k n = s.pmem.readBytes k n :=
  eq_readBytes_of_unstoredMatch (Memory.length_readBytes _ _ _) (h.unstoredMatch k n) hfree

/-- The entry the walk's first read returns is the page table's. -/
theorem State.beganWith.pte1 (h : s.beganWith mem)
    (hfree : storedTouches s.stored (level1Address s.ptbr sp).toNat 4 = false) :
    s.pte1 sp = pteOf (level1Address s.ptbr sp).toNat (mem.readBytes (level1Address s.ptbr sp).toNat 4) := by
  rw [State.pte1, State.entryAt, h.readBytes hfree]

theorem StoredFollows.untouched (h : StoredFollows s t) (hfree : storedTouches t.stored k n = false) :
    storedTouches s.stored k n = false := storedTouches_mono _ _ k n h.grows hfree

theorem StoredFollows.readBytes (h : StoredFollows s t) (hfree : storedTouches t.stored k n = false) :
    t.pmem.readBytes k n = s.pmem.readBytes k n := (State.beganWith.readBytes h.pmem hfree).symm

theorem StoredFollows.pte1 (h : StoredFollows s t) (hp : t.ptbr = s.ptbr)
    (hfree : storedTouches t.stored (level1Address s.ptbr sp).toNat 4 = false) : t.pte1 sp = s.pte1 sp := by
  rw [State.pte1, State.pte1, hp, State.entryAt, State.entryAt, h.readBytes hfree]

/-- Two states whose page table a superpage's walk reads alike: clean in the later one, it was clean, and gives the same. -/
theorem StoredFollows.walkTable (h : StoredFollows s t) (hp : t.ptbr = s.ptbr) (hclean : t.tableClean sp = true) :
    s.tableClean sp = true ∧ t.walkTable sp = s.walkTable sp := by
  simp only [State.tableClean, Bool.and_eq_true, Bool.not_eq_true', hp] at hclean ⊢
  obtain ⟨hfirst, hsecond⟩ := hclean
  have hpte := h.pte1 hp hfirst
  rw [hpte] at hsecond
  refine ⟨⟨h.untouched hfirst, h.untouched hsecond⟩, ?_⟩
  rw [State.walkTable, State.walkTable, hpte, State.entryAt, State.entryAt, h.readBytes hsecond]

theorem StoredFollows.tableAddress (h : StoredFollows s t) (hp : t.ptbr = s.ptbr)
    (hclean : t.tableClean (superpage va) = true) : t.tableAddress va = s.tableAddress va := by
  rw [State.tableAddress, State.tableAddress, (h.walkTable hp hclean).2]

/-- What agreed with the page table goes on to. -/
theorem State.tlbAgrees.follows {tlb : Tlb} (hs : s.tlbAgrees tlb) (h : StoredFollows s t) (hp : t.ptbr = s.ptbr) :
    t.tlbAgrees tlb := by
  intro i hv
  obtain ⟨hslot, hwalk⟩ := hs i hv
  refine ⟨hslot, fun hclean => ?_⟩
  obtain ⟨hclean', heq⟩ := h.walkTable hp hclean
  exact heq.trans (hwalk hclean')

theorem State.l2aAgrees.follows {tlb : Tlb} (hs : s.l2aAgrees tlb va) (h : StoredFollows s t) (hp : t.ptbr = s.ptbr) :
    t.l2aAgrees tlb va := by
  intro hfree
  rw [hp] at hfree
  rw [h.pte1 hp hfree]
  exact hs (h.untouched hfree)

theorem State.fetchesWord.follows {word : Word32} (hs : s.fetchesWord pc word) (h : StoredFollows s t)
    (hp : t.ptbr = s.ptbr) : t.fetchesWord pc word := by
  intro hclean
  obtain ⟨pa, hpa, hword⟩ := hs (h.walkTable hp hclean).1
  refine ⟨pa, (h.tableAddress hp hclean).trans hpa, fun hfree => ?_⟩
  rw [State.wordAt, h.readBytes hfree]
  exact hword (h.untouched hfree)

end

/-! ## A cycle of translation agrees with the page table (R81 to R91) -/

/-- Everything a cycle of translation gives agrees with the page table of `s`: the address, and the TLB it leaves with the
walk in progress there. -/
def TransResult.Agrees (s : State) (side : Side) (va : Word) : TransResult → Prop
  | .hit pa => s.tableClean (superpage va) = true → s.tableAddress va = some pa
  | .done t pa => s.tlbAgrees (t.tlb side) ∧ (s.tableClean (superpage va) = true → s.tableAddress va = some pa)
  | .retry t step _ => s.tlbAgrees (t.tlb side) ∧ (step = .second → s.l2aAgrees (t.tlb side) va)
  | .pageFault t => s.tlbAgrees (t.tlb side)
  | .slotMismatch _ => False
  | .stop _ => True

section
variable {s : State} {side : Side} {mem : Memory} {va : Word} {walk : Option (WalkStep × Bool)} {tlb : Tlb} {pa : PAddr}

theorem State.tlb_called (s : State) (side : Side) (latency : List Bool) (calls : Nat) :
    State.tlb { s with latency := latency, calls := calls } side = s.tlb side := by
  cases side <;> rfl

/-- An address that hits is the page table's. -/
theorem State.tlbAgrees.address_of_hit (h : s.tlbAgrees tlb) (hv : (tlb.slotFor va).valid = true)
    (ht : (tlb.slotFor va).tag = superpage va) (hclean : s.tableClean (superpage va) = true) :
    s.tableAddress va = some ((tlb.slotFor va).ppn ++ superpageOffset va) := by
  have hwalk := (h (vpnSlot va) hv).2
  unfold Tlb.slotFor at ht
  rw [ht] at hwalk
  rw [State.tableAddress, hwalk hclean]
  rfl

/-- The entry at the second level is the page table's own, when the walk got there by the first. -/
theorem State.l2aAgrees.walkTable (h : s.l2aAgrees tlb va) (hmem : s.beganWith mem)
    (hfree : storedTouches s.stored tlb.l2a.toNat 4 = false) (hclean : s.tableClean (superpage va) = true) :
    let e := pteOf tlb.l2a.toNat (mem.readBytes tlb.l2a.toNat 4)
    pteValid e = true → s.walkTable (superpage va) = some (pteNumber e) := by
  simp only [State.tableClean, Bool.and_eq_true, Bool.not_eq_true'] at hclean
  obtain ⟨hvalid, hl2a⟩ := h hclean.1
  intro e he
  have hentry : s.entryAt (level2Address (s.pte1 (superpage va)) (superpage va)) = e := by
    rw [← hl2a, State.entryAt, ← hmem.readBytes hfree]
  rw [State.walkTable, if_pos hvalid, hentry]
  exact if_pos he

/-- A slot installed at its own index, with the page table's number, keeps the agreement. -/
theorem State.tlbAgrees.install (h : s.tlbAgrees tlb) {ppn : BitVec 18}
    (hwalk : s.tableClean (superpage va) = true → s.walkTable (superpage va) = some ppn) :
    s.tlbAgrees (tlb.install (vpnSlot va) { valid := true, tag := superpage va, ppn := ppn }) := by
  intro i hv
  unfold Tlb.install at hv ⊢
  by_cases hi : (vpnSlot va).toNat = i.toNat
  · simp only [Vector.getElem_set, hi, if_true]
    exact ⟨by rw [← vpnSlot_eq_spSlot, BitVec.eq_of_toNat_eq hi], hwalk⟩
  · simp only [Vector.getElem_set, hi, if_false] at hv ⊢
    exact h i hv

/-- A cycle of translation keeps the agreement of its TLB, and gives addresses of the page table. -/
theorem translate_agrees (hmem : s.beganWith mem) (htlb : s.tlbAgrees (s.tlb side))
    (hwalk : ∀ issued, walk = some (.second, issued) → s.l2aAgrees (s.tlb side) va) (spent : Bool) :
    (translate side mem spent walk va s).Agrees s side va := by
  have hsecond : (walk.getD (.first, false)).1 = .second → s.l2aAgrees (s.tlb side) va := by
    intro hstep
    cases walk with
    | none => cases hstep
    | some w =>
      obtain ⟨step, issued⟩ := w
      cases hstep
      exact hwalk issued rfl
  by_cases hit : s.tlbHits side va
  · rw [translate_hit hit]
    exact htlb.address_of_hit hit.1 hit.2
  obtain hm | hm | hm | ⟨hfree, -, latency, hm | ⟨-, hm⟩ | ⟨he, hstep, hm⟩ | ⟨he, hstep, hm⟩⟩ :=
    translate_miss side mem spent walk va s hit
  all_goals rw [hm]
  · exact ⟨htlb, hsecond⟩
  · trivial
  · trivial
  all_goals simp only [TransResult.Agrees, State.tlb_setTlb, State.tlb_called]
  · exact ⟨htlb, hsecond⟩
  · exact htlb
  · rw [hstep] at hfree he ⊢
    refine ⟨htlb, fun _ hfirst => ?_⟩
    rw [hmem.pte1 hfirst]
    exact ⟨he, rfl⟩
  · rw [hstep] at hfree he ⊢
    have htable := fun hclean => (hsecond hstep).walkTable hmem hfree hclean he
    exact ⟨htlb.install htable, fun hclean => by rw [State.tableAddress, htable hclean]; rfl⟩

/-- An address translation gives keeps the page offset (R87). -/
theorem translate_offset {spent : Bool} (h : (translate side mem spent walk va s).address = some pa) :
    samePageOffset pa va = true := by
  by_cases hit : s.tlbHits side va
  · rw [translate_hit hit] at h
    cases h
    exact samePageOffset_append _ va
  obtain hm | hm | hm | ⟨-, -, latency, hm | ⟨-, hm⟩ | ⟨-, -, hm⟩ | ⟨-, -, hm⟩⟩ :=
    translate_miss side mem spent walk va s hit
  all_goals
    rw [hm] at h
    cases h
  exact samePageOffset_append _ va

end

end Sys2Proof.Machine

namespace Sys2Proof.Machine

/-! ## A cache in form (R39, R95) -/

/-- A cache has its rows, its ways and its line size, and no set holds a tag twice. -/
structure Cache.Formed (lineSize rows ways : Nat) (cache : Cache) : Prop where
  sets : cache.length = rows
  assoc : ∀ index < rows, (cache.ways index).length = ways
  bytes : ∀ index way l, cache.row index way = some l → l.data.length = lineSize
  unique : ∀ index w w' l l', cache.row index w = some l → cache.row index w' = some l' → l.valid = true →
    l'.valid = true → l.tag = l'.tag → w = w'

section
variable {cache : Cache} {lineSize rows ways index way : Nat} {l : Line}

theorem Cache.uniqueTags_of_unique (h : ∀ index w w' l l', cache.row index w = some l → cache.row index w' = some l' →
    l.valid = true → l'.valid = true → l.tag = l'.tag → w = w') : cache.uniqueTags = true := by
  simp only [Cache.uniqueTags, List.all_eq_true, decide_eq_true_eq]
  intro set hset
  obtain ⟨index, hi⟩ := List.getElem?_of_mem hset
  have hrow : ∀ w (hw : w < set.length), cache.row index w = some set[w] := fun w hw =>
    Cache.row_eq_some.2 ⟨set, hi, List.getElem?_eq_getElem hw⟩
  refine List.pairwise_map.2 (List.pairwise_filter.2 (List.pairwise_iff_getElem.2 fun w w' hw hw' hlt hv hv' ht => ?_))
  exact absurd (h index w w' _ _ (hrow w hw) (hrow w' hw') hv hv' ht) (Nat.ne_of_lt hlt)

theorem Cache.formed_iff :
    cache.Formed lineSize rows ways ↔ cache.shaped lineSize rows ways = true ∧ cache.uniqueTags = true := by
  rw [Cache.shaped_iff]
  constructor
  · rintro ⟨hrows, hways, hsize, hunique⟩
    exact ⟨⟨hrows, hways, hsize⟩, Cache.uniqueTags_of_unique hunique⟩
  · rintro ⟨⟨hrows, hways, hsize⟩, hunique⟩
    exact ⟨hrows, hways, hsize, fun _ _ _ _ _ hl hl' hv hv' ht => Cache.unique_of_uniqueTags hunique hl hl' hv hv' ht⟩

/-- A row is one of the cache's, or the one put there. -/
theorem Cache.Formed.row_cases (h : cache.Formed lineSize rows ways) (hi : index < rows) (hw : way < ways) {i w : Nat}
    {k : Line} (hk : (cache.setLine index way l).row i w = some k) :
    (i = index ∧ w = way ∧ k = l) ∨ cache.row i w = some k := by
  rw [Cache.row_setLine (by rwa [h.assoc index hi])] at hk
  split at hk
  · next hiw => exact .inl ⟨hiw.1, hiw.2, (Option.some.inj hk).symm⟩
  · exact .inr hk

/-- Putting a line whose tag misses keeps the form. -/
theorem Cache.Formed.setLine (h : cache.Formed lineSize rows ways) (hi : index < rows) (hw : way < ways)
    (hsize : l.data.length = lineSize) (hmiss : hitWay (cache.ways index) l.tag = none) :
    (cache.setLine index way l).Formed lineSize rows ways where
  sets := (cache.length_setLine index way l).trans h.sets
  assoc := fun i hi => (cache.length_ways_setLine_any index way i l).trans (h.assoc i hi)
  bytes := fun i w k hk => by
    obtain ⟨-, -, rfl⟩ | hk := h.row_cases hi hw hk
    · exact hsize
    · exact h.bytes i w k hk
  unique := fun i w w' k k' hk hk' hv hv' ht => by
    obtain ⟨hi1, rfl, rfl⟩ | hold := h.row_cases hi hw hk <;> obtain ⟨hi2, rfl, rfl⟩ | hold' := h.row_cases hi hw hk'
    · rfl
    · exact absurd ⟨hv', ht.symm⟩ (hitWay_eq_none.1 hmiss w' k' (hi1 ▸ hold'))
    · exact absurd ⟨hv, ht⟩ (hitWay_eq_none.1 hmiss w k (hi2 ▸ hold))
    · exact h.unique i w w' k k' hold hold' hv hv' ht

/-- The line of an address's tag, in the address's set, begins at the address's line base (R94). -/
theorem Line.address_of_tag {pa : PAddr} (ht : l.tag = lineTag lineSize rows pa) :
    l.address lineSize rows (lineIndex lineSize rows pa) = lineBase lineSize pa := by
  rw [Line.address, ht, lineTag, lineIndex, lineBase, Nat.div_add_mod']

end

/-! ## The part of the invariant that the fetch side keeps -/

/-- The instruction cache is in form, clean, and agrees with the backing store off `STORED`; and the status belongs to the
fetch at the PC. -/
structure FetchInv (s : State) : Prop where
  params_wf : s.params.wf = true
  formed : s.icache.Formed Config.iline s.params.icacheRows s.params.icacheWays
  lines : ∀ index way l, s.icache.row index way = some l → l.valid = true →
    l.address Config.iline s.params.icacheRows index < 2 ^ 32 ∧
      unstoredMatch s (l.address Config.iline s.params.icacheRows index) l.data = true
  undirtied : ∀ index way l, s.icache.row index way = some l → l.dirty = false
  status : s.statusOfPc = true

theorem Inv.fetchInv {s : State} (h : Inv s) : FetchInv s := by
  obtain ⟨hmem, -, -, hstatus⟩ := h
  simp only [State.memoryInv, Bool.and_eq_true] at hmem
  obtain ⟨⟨⟨⟨⟨⟨⟨⟨⟨⟨⟨⟨⟨⟨hwf, -⟩, -⟩, -⟩, hshaped⟩, hunique⟩, haddressed⟩, -⟩, -⟩, -⟩, hlines⟩, -⟩, -⟩, hdirty⟩, -⟩ := hmem
  refine ⟨hwf, Cache.formed_iff.2 ⟨hshaped, hunique⟩, fun index way l hl hv => ⟨?_, ?_⟩, fun index way l hl => ?_, hstatus⟩
  · exact of_decide_eq_true (Cache.allValid_iff.1 haddressed index way l hl hv)
  · exact Cache.allValid_iff.1 hlines index way l hl hv
  · simpa using Cache.all_rows_iff.1 hdirty index way l hl

/-- The structural invariant is that of the data side, of the stored bytes, of the fetch side, and of latch `X`. -/
theorem Inv.of_parts {s : State} (hd : DataInv s) (hb : BytesInv s) (hf : FetchInv s) (hx : s.decodedX = true) : Inv s := by
  obtain ⟨hcoh, hstatusM⟩ := hd
  obtain ⟨hishaped, hiunique⟩ := Cache.formed_iff.1 hf.formed
  obtain ⟨hdshaped, hdunique⟩ := Cache.formed_iff.1
    (⟨hcoh.rows, hcoh.ways, hcoh.lineSize, hcoh.unique⟩ : s.dcache.Formed Config.dline _ _)
  refine ⟨?_, hx, hstatusM, hf.status⟩
  simp only [State.memoryInv, Bool.and_eq_true, Bool.or_eq_true]
  refine ⟨⟨⟨⟨⟨⟨⟨⟨⟨⟨⟨⟨⟨⟨hf.params_wf, hcoh.pmem_wf⟩, hb.bounded⟩, hb.rising⟩, hishaped⟩, hiunique⟩, ?_⟩, hdshaped⟩,
    hdunique⟩, ?_⟩, ?_⟩, ?_⟩, ?_⟩, ?_⟩, ?_⟩
  · exact Cache.allValid_iff.2 fun index way l hl hv => decide_eq_true (hf.lines index way l hl hv).1
  · exact Cache.allValid_iff.2 fun index way l hl hv => decide_eq_true (hcoh.addressed index way l hl hv)
  · exact Cache.allValid_iff.2 fun index way l hl hv => (hf.lines index way l hl hv).2
  · exact Cache.allValid_iff.2 hb.lines
  · refine Cache.allValid_iff.2 fun index way l hl hv => ?_
    cases hdirty : l.dirty with
    | true => rfl
    | false =>
      simp only [Bool.false_or, Bool.or_eq_true, beq_iff_eq]
      exact (hcoh.clean index way l hl hv hdirty).imp_right (eq_readBytes_iff (hcoh.lineSize index way l hl)).2
  · exact Cache.all_rows_iff.2 fun index way l hl => by rw [hf.undirtied index way l hl]; rfl
  · cases hwb : s.writeBack with
    | true => exact .inl rfl
    | false => exact .inr (Cache.all_rows_iff.2 fun index way l hl => by rw [hcoh.undirtied hwb index way l hl]; rfl)

/-- The physical address a status of the fetch stage holds (R36). -/
def FetchStatus.address : FetchStatus → Option PAddr
  | .fresh => none
  | .iTlb _ _ => none
  | .iDeferred pa => some pa
  | .iFill pa _ _ => some pa
  | .faulted => none

/-- The I-TLB, the fetch's walk in progress and the address its status holds agree with the page table. -/
structure FetchTrans (s : State) : Prop where
  tlb : s.tlbAgrees s.itlb
  walk : ∀ issued, s.fs = .iTlb .second issued → s.l2aAgrees s.itlb s.pc
  address : ∀ pa, s.fs.address = some pa → s.tableClean (superpage s.pc) = true → s.tableAddress s.pc = some pa

/-! ## What carries over to the next stage and the next cycle -/

/-- `t` has the fetch side of `s`, where `STORED` may have grown, but for a redirect (R341, R355, R372). -/
structure FetchKept (s t : State) : Prop where
  itlb : t.itlb = s.itlb
  icache : t.icache = s.icache
  params : t.params = s.params
  ptbr : t.ptbr = s.ptbr
  follows : StoredFollows s t
  next : (t.pc = s.pc ∧ t.fs = s.fs) ∨ t.fs = .fresh

section
variable {s t u : State} {pa : PAddr} {way : Nat} {l : Line}

theorem FetchKept.trans (h : FetchKept s t) (k : FetchKept t u) : FetchKept s u where
  itlb := k.itlb.trans h.itlb
  icache := k.icache.trans h.icache
  params := k.params.trans h.params
  ptbr := k.ptbr.trans h.ptbr
  follows := h.follows.trans k.follows
  next := by
    obtain ⟨hpc, hfs⟩ | hfs := k.next
    · exact h.next.imp (fun hs => ⟨hpc.trans hs.1, hfs.trans hs.2⟩) hfs.trans
    · exact .inr hfs

theorem State.statusOfPc_congr (hpc : t.pc = s.pc) (hfs : t.fs = s.fs) (hp : t.params = s.params) :
    t.statusOfPc = s.statusOfPc := by
  unfold State.statusOfPc
  rw [hpc, hfs, hp]

/-- The instruction cache goes on in form: only the status is left to show. -/
theorem FetchInv.follows (h : FetchInv s) (hf : StoredFollows s t) (hc : t.icache = s.icache) (hp : t.params = s.params)
    (hst : t.statusOfPc = true) : FetchInv t where
  params_wf := hp ▸ h.params_wf
  formed := by rw [hc, hp]; exact h.formed
  lines := fun index way l hl hv => by
    rw [hc] at hl
    rw [hp]
    exact ⟨(h.lines index way l hl hv).1, hf.unstoredMatch (h.lines index way l hl hv).2⟩
  undirtied := fun index way l hl => by rw [hc] at hl; exact h.undirtied index way l hl
  status := hst

theorem FetchInv.kept (h : FetchInv s) (k : FetchKept s t) : FetchInv t := by
  refine h.follows k.follows k.icache k.params ?_
  obtain ⟨hpc, hfs⟩ | hfs := k.next
  · exact (State.statusOfPc_congr hpc hfs k.params).trans h.status
  · rw [State.statusOfPc, hfs]

theorem FetchTrans.kept (h : FetchTrans s) (k : FetchKept s t) : FetchTrans t := by
  have htlb : t.tlbAgrees t.itlb := by rw [k.itlb]; exact h.tlb.follows k.follows k.ptbr
  obtain ⟨hpc, hfs⟩ | hfs := k.next
  · refine ⟨htlb, fun issued hwalk => ?_, fun pa hpa hclean => ?_⟩
    · rw [k.itlb, hpc]
      exact (h.walk issued (hfs ▸ hwalk)).follows k.follows k.ptbr
    · rw [hfs] at hpa
      rw [hpc] at hclean ⊢
      exact (k.follows.tableAddress k.ptbr hclean).trans (h.address pa hpa (k.follows.walkTable k.ptbr hclean).1)
  · exact ⟨htlb, fun issued hwalk => (by rw [hfs] at hwalk; cases hwalk), fun pa hpa => (by rw [hfs] at hpa; cases hpa)⟩

/-! ## A cycle of the instruction cache (R338, R342 to R346) -/

/-- The fetch at the PC is at a physical address that keeps its offset (R87), and is aligned (R69). -/
def State.fetchAt (s : State) (pa : PAddr) : Prop := samePageOffset pa s.pc = true ∧ misalignedFetch s.pc = false

/-- An instruction's word stays inside the line of its physical address. -/
theorem State.fetchAt.fits (h : s.fetchAt pa) : pa.toNat % 16 + 4 ≤ 16 := by
  have hoff : pa.setWidth 14 = s.pc.setWidth 14 := by simpa [samePageOffset] using h.1
  have hpc : s.pc.setWidth 2 = 0#2 := by simpa [misalignedFetch] using h.2
  have hmod := congrArg BitVec.toNat hoff
  have hlow := congrArg BitVec.toNat hpc
  simp only [BitVec.toNat_setWidth, BitVec.toNat_ofNat] at hmod hlow
  omega

/-- A cycle of the instruction cache at `pa` keeps the fetch side's invariant and the I-TLB; it delivers the backing store's
word there, or waits with that address in its status. -/
def State.FetchedAt (s t : State) (pa : PAddr) : Prop :=
  FetchInv t ∧ t.itlb = s.itlb ∧
    ((t.fs = .fresh ∧ ∃ predPc, t.d = .instr s.pc (s.wordAt pa) predPc) ∨
      (t.d = .bubble ∧ t.pc = s.pc ∧ t.fs.address = some pa))

variable {bp : Vector BpEntry 32} {mem : Memory} {spent issued : Bool} {data : List (Option Byte)}

/-- The word of a line that agrees with the backing store off `STORED` is the backing store's. -/
theorem icacheServe_fetches (h : FetchInv s) (hat : s.fetchAt pa) (hlen : data.length = 16)
    (hmatch : unstoredMatch s (lineBase Config.iline pa) data = true) (hserve : icacheServe bp pa data s = .next t) :
    s.FetchedAt t pa := by
  obtain ⟨hfree, rfl⟩ := icacheServe_next hserve
  have hfits := hat.fits
  have hbase : lineBase Config.iline pa = pa.toNat / 16 * 16 := rfl
  have hlen' : (slice data (lineOffset Config.iline pa) 4).length = 4 := by
    simp only [slice, lineOffset, Config.iline, List.length_take, List.length_drop]
    omega
  have hslice : unstoredMatch s pa.toNat (slice data (lineOffset Config.iline pa) 4) = true := by
    refine unstoredMatch_iff.2 fun k hk => ?_
    rw [hlen'] at hk
    have hbyte := unstoredMatch_iff.1 hmatch (pa.toNat % 16 + k) (by omega)
    rw [hbase, show pa.toNat / 16 * 16 + (pa.toNat % 16 + k) = pa.toNat + k by omega] at hbyte
    simpa [slice, lineOffset, Config.iline, List.getD_eq_getElem?_getD, hk, List.getElem?_take] using hbyte
  rw [eq_readBytes_of_unstoredMatch hlen' hslice hfree]
  exact ⟨h.follows (.of_eq rfl rfl) rfl rfl rfl, rfl, .inl ⟨rfl, _, rfl⟩⟩

theorem FetchInv.iIndex_lt (h : FetchInv s) (pa : PAddr) : s.iIndex pa < s.params.icacheRows := by
  have hp := h.params_wf
  simp only [Params.wf, isPowerOfTwo, Bool.and_eq_true, beq_iff_eq] at hp
  refine Nat.mod_lt _ ?_
  rw [hp.1.1.1.1]
  exact Nat.two_pow_pos _

/-- Filling a way with the backing store's line where its address misses (R343). -/
theorem FetchInv.fill (h : FetchInv s) (hmem : s.beganWith mem) (hw : way < s.params.icacheWays)
    (hmiss : hitWay (s.icache.ways (s.iIndex pa)) (s.iTag pa) = none) (hl : l.tag = s.iTag pa)
    (hdata : l.data = mem.readBytes (lineBase Config.iline pa) Config.iline) (hdirty : l.dirty = false)
    (hf : StoredFollows s t) (hc : t.icache = s.icache.setLine (s.iIndex pa) way l) (hp : t.params = s.params)
    (hst : t.statusOfPc = true) : FetchInv t where
  params_wf := hp ▸ h.params_wf
  formed := by
    rw [hc, hp]
    exact h.formed.setLine (h.iIndex_lt pa) hw (by rw [hdata]; exact Memory.length_readBytes _ _ _) (by rwa [hl])
  lines := fun index w k hk hv => by
    rw [hc] at hk
    rw [hp]
    obtain ⟨rfl, rfl, rfl⟩ | hk := h.formed.row_cases (h.iIndex_lt pa) hw hk
    · have haddr : k.address Config.iline s.params.icacheRows (s.iIndex pa) = lineBase Config.iline pa :=
        Line.address_of_tag hl
      rw [haddr, hdata]
      exact ⟨lt_of_le_of_lt (Nat.div_mul_le_self _ _) pa.isLt, hf.unstoredMatch (hmem.unstoredMatch _ _)⟩
    · exact ⟨(h.lines index w k hk hv).1, hf.unstoredMatch (h.lines index w k hk hv).2⟩
  undirtied := fun index w k hk => by
    rw [hc] at hk
    obtain ⟨rfl, rfl, rfl⟩ | hk := h.formed.row_cases (h.iIndex_lt pa) hw hk
    · exact hdirty
    · exact h.undirtied index w k hk
  status := hst

/-- Calls and draws are no part of the fetch side. -/
theorem FetchInv.called (h : FetchInv s) (latency : List Bool) (calls : Nat) (victims : List Nat) (draws : Nat) :
    FetchInv { s with latency := latency, calls := calls, victims := victims, draws := draws } :=
  h.follows (.of_eq rfl rfl) rfl rfl h.status

theorem icacheFill_fetches (h : FetchInv s) (hmem : s.beganWith mem) (hat : s.fetchAt pa) (hw : way < s.params.icacheWays)
    (hmiss : hitWay (s.icache.ways (s.iIndex pa)) (s.iTag pa) = none) (hfill : icacheFill bp mem pa way issued s = .next t) :
    s.FetchedAt t pa := by
  obtain ⟨latency, rfl | hserve⟩ := icacheFill_cases hfill
  · refine ⟨h.follows (.of_eq rfl rfl) rfl rfl ?_, rfl, .inr ⟨rfl, rfl, rfl⟩⟩
    simp [State.statusOfPc, hat.1, hat.2, hw]
  · set u : State := { s with
      latency := latency
      calls := s.calls + 1
      icache := s.icache.setLine (s.iIndex pa) way
        { valid := true
          tag := s.iTag pa
          data := mem.readBytes (lineBase Config.iline pa) Config.iline
          dirty := false } }
    have hinv : FetchInv u := h.fill hmem hw hmiss rfl rfl rfl (.of_eq rfl rfl) rfl rfl h.status
    have hmatch := State.beganWith.unstoredMatch (s := u) hmem (lineBase Config.iline pa) Config.iline
    exact (icacheServe_fetches hinv hat (Memory.length_readBytes _ _ _) hmatch hserve :)

/-- The way a fetch's miss picks is a way of the set. -/
theorem FetchInv.victim_lt (h : FetchInv s) {s' : State}
    (hp : (way, s') = pickVictim s (victimCandidates false (s.icache.ways (s.iIndex pa)))) :
    way < s.params.icacheWays := by
  have hlen := h.formed.assoc _ (h.iIndex_lt pa)
  have hpos : 0 < (s.icache.ways (s.iIndex pa)).length := by
    have hwf := h.params_wf
    simp only [Params.wf, Bool.and_eq_true, Bool.or_eq_true, beq_iff_eq] at hwf
    omega
  have hmem := (pickVictim_cases s _ (victimCandidates_ne_nil (writeBack := false) hpos)).1
  rw [← hp] at hmem
  exact hlen ▸ mem_victimCandidates hmem

theorem State.spentStatus_address (hpa : ∀ q, s.fs.address = some q → q = pa) : (s.spentStatus pa).address = some pa := by
  unfold State.spentStatus
  split
  · next q way issued hfs _ =>
    have hq := hpa q (by rw [hfs]; rfl)
    rw [hfs, hq]
    rfl
  · rfl

theorem State.statusOfPc_spentStatus (h : FetchInv s) (hat : s.fetchAt pa) :
    State.statusOfPc { s with d := .bubble, fs := s.spentStatus pa } = true := by
  have hst := h.status
  unfold State.spentStatus
  split
  · exact hst
  · simp [State.statusOfPc, hat.1, hat.2]

theorem icacheAccess_fetches (h : FetchInv s) (hmem : s.beganWith mem) (hat : s.fetchAt pa)
    (hpa : ∀ q, s.fs.address = some q → q = pa) (hacc : icacheAccess bp mem spent pa s = .next t) : s.FetchedAt t pa := by
  obtain ⟨way, hway, hserve⟩ | ⟨hmiss, ⟨-, rfl⟩ | ⟨q, way, issued, hfs, hfill⟩ | ⟨way, s', hpick, hfill⟩⟩ :=
    icacheAccess_cases hacc
  · obtain ⟨l, hrow, hv, ht⟩ := hitWay_eq_some hway
    have hmatch := (h.lines _ _ _ hrow hv).2
    have haddr : l.address Config.iline s.params.icacheRows (s.iIndex pa) = lineBase Config.iline pa :=
      Line.address_of_tag ht
    rw [haddr] at hmatch
    rw [Cache.line_of_row hrow] at hserve
    exact icacheServe_fetches h hat (h.formed.bytes _ _ _ hrow) hmatch hserve
  · exact ⟨h.follows (.of_eq rfl rfl) rfl rfl (State.statusOfPc_spentStatus h hat), rfl,
      .inr ⟨rfl, rfl, State.spentStatus_address hpa⟩⟩
  · have hst := h.status
    simp only [State.statusOfPc, hfs, Bool.and_eq_true, decide_eq_true_eq] at hst
    exact icacheFill_fetches h hmem hat hst.2 hmiss hfill
  · have hw := h.victim_lt hpick
    obtain ⟨victims, draws, rfl⟩ := pickVictim_eq hpick.symm
    exact (icacheFill_fetches (h.called s.latency s.calls victims draws) hmem hat hw hmiss hfill :)

/-! ## A cycle of the fetch stage -/

/-- The fetch stage keeps the fetch side's invariant; and when the translations agree with the page table, they go on to,
and the word it delivers is the program's. -/
def State.Fetches (s t : State) : Prop :=
  FetchInv t ∧ (FetchTrans s → FetchTrans t ∧ ∀ pc word predPc, t.d = .instr pc word predPc → t.fetchesWord pc word)

/-- The fetch stage leaves what the page table is read from. -/
theorem FetchChange.memory_eq (h : FetchChange s t) : t.stored = s.stored ∧ t.pmem = s.pmem ∧ t.ptbr = s.ptbr := by
  obtain ⟨_, _, _, _, _, _, _, _, _, rfl⟩ := h
  exact ⟨rfl, rfl, rfl⟩

/-- A cycle of the instruction cache at an address of the page table, `s` being the state after the translation. -/
theorem State.FetchedAt.trans (h : s.FetchedAt t pa) (hc : FetchChange s t) (htlb : s.tlbAgrees s.itlb)
    (haddr : s.tableClean (superpage s.pc) = true → s.tableAddress s.pc = some pa) :
    FetchTrans t ∧ ∀ pc word predPc, t.d = .instr pc word predPc → t.fetchesWord pc word := by
  obtain ⟨-, hitlb, hcase⟩ := h
  obtain ⟨hs, hm, hp⟩ := hc.memory_eq
  have hfollows : StoredFollows s t := .of_eq hs hm
  have htlb' : t.tlbAgrees t.itlb := by rw [hitlb]; exact htlb.follows hfollows hp
  obtain ⟨hfs, predPc, hd⟩ | ⟨hd, hpc, hfs⟩ := hcase
  · refine ⟨⟨htlb', fun issued hw => (by rw [hfs] at hw; cases hw), fun q hq => (by rw [hfs] at hq; cases hq)⟩, ?_⟩
    intro pc word p hinstr
    cases hd.symm.trans hinstr
    exact (show s.fetchesWord s.pc (s.wordAt pa) from fun hclean => ⟨pa, haddr hclean, fun _ => rfl⟩).follows hfollows hp
  · refine ⟨⟨htlb', fun issued hw => (by rw [hw] at hfs; cases hfs), fun q hq hclean => ?_⟩, by simp [hd]⟩
    obtain rfl := Option.some.inj (hfs.symm.trans hq)
    rw [hpc] at hclean ⊢
    exact (hfollows.tableAddress hp hclean).trans (haddr (hfollows.walkTable hp hclean).1)

theorem FetchTrans.of_noAddress (htlb : s.tlbAgrees s.itlb) (hfs : ∀ issued, s.fs ≠ .iTlb .second issued)
    (haddr : s.fs.address = none) : FetchTrans s :=
  ⟨htlb, fun issued hw => absurd hw (hfs issued), fun q hq => by rw [haddr] at hq; cases hq⟩

/-- A translation's own part of the fetch stage: a token, or a walk that goes on. -/
theorem fetchTranslate_fetches {walk : Option (WalkStep × Bool)} (h : FetchInv s) (hmem : s.beganWith mem)
    (hal : misalignedFetch s.pc = false) (hwalk : s.fetchWalk walk) (hfetch : fetchTranslate bp mem spent walk s = .next t) :
    s.Fetches t := by
  have hnone : s.fs.address = none := by obtain ⟨hfs, -⟩ | ⟨_, _, hfs, -⟩ := hwalk <;> rw [hfs] <;> rfl
  have hpa : ∀ pa q, s.fs.address = some q → q = pa := fun pa q hq => by rw [hnone] at hq; cases hq
  have hleaves := translate_instr_leaves mem spent walk s.pc s
  have hoffset := fun pa => translate_offset (side := .instr) (mem := mem) (walk := walk) (va := s.pc) (s := s) (pa := pa)
    (spent := spent)
  have hagrees := fun hs : FetchTrans s => translate_agrees (side := .instr) (va := s.pc) (walk := walk) hmem hs.tlb
    (fun issued hw => by
      obtain ⟨-, hnone⟩ | ⟨_, _, hfs, hsome⟩ := hwalk
      · rw [hnone] at hw; cases hw
      · cases hsome.symm.trans hw
        exact hs.walk issued hfs) spent
  unfold fetchTranslate at hfetch
  revert hfetch hleaves hoffset hagrees
  cases translate .instr mem spent walk s.pc s with
  | hit pa =>
    intro hfetch _ hoffset hagrees
    have hat := icacheAccess_fetches h hmem ⟨hoffset pa rfl, hal⟩ (hpa pa) hfetch
    exact ⟨hat.1, fun hs => hat.trans (icacheAccess_changes hfetch) hs.tlb (hagrees hs)⟩
  | done s' pa =>
    rintro hfetch ⟨itlb, latency, calls, rfl⟩ hoffset hagrees
    have hinv : FetchInv { s with itlb := itlb, latency := latency, calls := calls } :=
      h.follows (.of_eq rfl rfl) rfl rfl h.status
    have hat := icacheAccess_fetches hinv hmem ⟨hoffset pa rfl, hal⟩ (hpa pa) hfetch
    exact ⟨hat.1, fun hs => hat.trans (icacheAccess_changes hfetch) (hagrees hs).1 (hagrees hs).2⟩
  | retry s' step issued =>
    rintro hfetch ⟨itlb, latency, calls, rfl⟩ - hagrees
    cases hfetch
    refine ⟨h.follows (.of_eq rfl rfl) rfl rfl (by simp [State.statusOfPc, hal]), fun hs => ?_⟩
    obtain ⟨htlb, hl2a⟩ := hagrees hs
    exact ⟨⟨htlb, fun issued' hfs => by cases hfs; exact hl2a rfl, nofun⟩, nofun⟩
  | pageFault s' =>
    rintro hfetch ⟨itlb, latency, calls, rfl⟩ - hagrees
    cases hfetch
    exact ⟨h.follows (.of_eq rfl rfl) rfl rfl rfl, fun hs => ⟨.of_noAddress (hagrees hs) nofun rfl, nofun⟩⟩
  | slotMismatch s' =>
    rintro hfetch ⟨itlb, latency, calls, rfl⟩ - hagrees
    cases hfetch
    exact ⟨h.follows (.of_eq rfl rfl) rfl rfl rfl, fun hs => (hagrees hs).elim⟩
  | stop x => cases x <;> exact nofun

theorem fetchStage_fetches (h : FetchInv s) (hmem : s.beganWith mem) (hfetch : fetchStage bp mem spent s = .next t) :
    s.Fetches t := by
  by_cases hfs : s.fs = .faulted
  · cases (fetchStage_of_faulted hfs).symm.trans hfetch
    refine ⟨h.follows (.of_eq rfl rfl) rfl rfl h.status, fun hs => ⟨.of_noAddress hs.tlb ?_ ?_, nofun⟩⟩
    · exact fun issued hw => by cases hfs.symm.trans hw
    · exact congrArg FetchStatus.address hfs
  by_cases hpc : misalignedFetch s.pc = true
  · cases (fetchStage_of_misaligned hfs hpc).symm.trans hfetch
    exact ⟨h.follows (.of_eq rfl rfl) rfl rfl rfl, fun hs => ⟨.of_noAddress hs.tlb nofun rfl, nofun⟩⟩
  rw [Bool.not_eq_true] at hpc
  have cached : ∀ pa, s.fs.address = some pa → icacheAccess bp mem spent pa s = .next t → s.Fetches t := by
    intro pa hpa hacc
    have hoffset : samePageOffset pa s.pc = true := by
      have hst := h.status
      unfold State.statusOfPc at hst
      cases hs : s.fs <;> rw [hs] at hst hpa <;> cases hpa <;> simp only [Bool.and_eq_true] at hst
      case iDeferred => exact hst.1
      case iFill => exact hst.1.1
    have hat := icacheAccess_fetches h hmem ⟨hoffset, hpc⟩ (fun q hq => Option.some.inj (hq.symm.trans hpa)) hacc
    exact ⟨hat.1, fun hs => hat.trans (icacheAccess_changes hacc) hs.tlb (hs.address pa hpa)⟩
  cases hs : s.fs with
  | faulted => exact absurd hs hfs
  | fresh =>
    have hwalk : s.fetchWalk none := .inl ⟨hs, rfl⟩
    exact fetchTranslate_fetches h hmem hpc hwalk ((fetchStage_of_walk hpc hwalk).symm.trans hfetch)
  | iTlb step issued =>
    have hwalk : s.fetchWalk (some (step, issued)) := .inr ⟨_, _, hs, rfl⟩
    exact fetchTranslate_fetches h hmem hpc hwalk ((fetchStage_of_walk hpc hwalk).symm.trans hfetch)
  | iDeferred pa => exact cached pa (by rw [hs]; rfl) ((fetchStage_of_fetchReaches hpc (.inl hs)).symm.trans hfetch)
  | iFill pa way issued => exact cached pa (by rw [hs]; rfl) ((fetchStage_of_iFill hpc hs).symm.trans hfetch)

/-! ## The cycle, seen from the fetch side (R332) -/

/-- Where the word in `X` comes from: `X` is decoded, and from the word in `D`. -/
structure DecodedFrom (s t : State) : Prop where
  decoded : t.decodedX = true
  word : ∀ v, t.x = .instr v → ∃ predPc, s.d = .instr v.pc v.word predPc

variable {start : State} {mout : WLatch} {oldX : XLatch}

theorem executeStage_fetchKept (h : executeStage s = .next t) :
    FetchKept s t ∧ ∀ pc word predPc, t.d = .instr pc word predPc → s.d = .instr pc word predPc := by
  obtain (⟨-, rfl⟩ | ⟨_, _, -, rfl⟩) | ⟨_, _, _, _, -, -, ⟨-, rfl⟩ | ⟨-, rfl⟩⟩ := executeStage_scalar h
  · exact ⟨⟨rfl, rfl, rfl, rfl, .of_eq rfl rfl, .inl ⟨rfl, rfl⟩⟩, fun _ _ _ => id⟩
  · exact ⟨⟨rfl, rfl, rfl, rfl, .of_eq rfl rfl, .inl ⟨rfl, rfl⟩⟩, fun _ _ _ => id⟩
  · exact ⟨⟨rfl, rfl, rfl, rfl, .of_eq rfl rfl, .inl ⟨rfl, rfl⟩⟩, fun _ _ _ => id⟩
  · exact ⟨⟨rfl, rfl, rfl, rfl, .of_eq rfl rfl, .inr rfl⟩, nofun⟩

theorem decodedInstr_decodedX (pc : Word) (word : Word32) (predPc a b : Word) :
    State.decodedX { s with x := .instr (decodedInstr pc word predPc a b) } = true := by
  simp only [State.decodedX, decodedInstr, beq_self_eq_true, Bool.true_and, Option.all_eq_true, beq_iff_eq]
  exact fun v hv => (immValue_of_immediate hv).symm

theorem decodeStage_fetchKept : FetchKept s (decodeStage oldX mout s) ∧ DecodedFrom s (decodeStage oldX mout s) := by
  obtain ⟨-, he⟩ | ⟨_, _, -, he⟩ | ⟨_, _, _, hd, ⟨_, _, -, -, he⟩ | ⟨-, he⟩⟩ := decodeStage_cases oldX mout s <;> rw [he]
  · exact ⟨⟨rfl, rfl, rfl, rfl, .of_eq rfl rfl, .inl ⟨rfl, rfl⟩⟩, rfl, nofun⟩
  · exact ⟨⟨rfl, rfl, rfl, rfl, .of_eq rfl rfl, .inl ⟨rfl, rfl⟩⟩, rfl, nofun⟩
  · refine ⟨⟨rfl, rfl, rfl, rfl, .of_eq rfl rfl, .inl ⟨rfl, rfl⟩⟩, decodedInstr_decodedX _ _ _ _ _, fun v hv => ?_⟩
    cases hv
    exact ⟨_, hd⟩
  · exact ⟨⟨rfl, rfl, rfl, rfl, .of_eq rfl rfl, .inr rfl⟩, rfl, nofun⟩

theorem DataChange.fetchKept (h : DataChange s t) (hf : StoredFollows s t) : FetchKept s t := by
  obtain ⟨_, _, _, _, _, _, _, _, _, rfl⟩ := h
  exact ⟨rfl, rfl, rfl, rfl, hf, .inl ⟨rfl, rfl⟩⟩

/-- A step either leaves the latches and the fetch side, or fetches for `u`, into whose `X` the word in `D` has moved. -/
theorem step_fetch (hd : DataInv s) (hb : BytesInv s) (h : step s = .next t) :
    (FetchKept s t ∧ t.x = s.x ∧ t.d = s.d) ∨
      ∃ u r bp spent mout, FetchKept s u ∧ DecodedFrom s u ∧ fetchStage bp s.pmem spent u = .next r ∧
        t = { r with w := mout } := by
  have hc := memoryStage_changes s.writeback
  have hgrows := memoryStage_grows hd.writeback (State.writeback_bytesTo hb).inv
  have hwb : FetchKept s s.writeback := ⟨by simp, by simp, by simp, by simp, (State.writeback_bytesTo hb).follows, by simp⟩
  obtain ⟨-, rfl⟩ | ⟨-, ⟨s1, _, _, _, hm, rfl⟩ | ⟨s1, hm, rfl⟩ | ⟨s1, mout, spent, hm, hadv⟩⟩ := step_next h
  · exact .inl ⟨⟨rfl, rfl, rfl, rfl, .of_eq rfl rfl, .inl ⟨rfl, rfl⟩⟩, rfl, rfl⟩
  all_goals
    rw [hm] at hc hgrows
    have hsame := s.writeback_sameLatches.trans (DataChange.sameLatches hc).1
  · have hkept := hwb.trans (DataChange.fetchKept hc (BytesTo.follows hgrows))
    exact .inl ⟨hkept.trans ⟨rfl, rfl, rfl, rfl, .of_eq rfl rfl, .inl ⟨rfl, rfl⟩⟩, hsame.x, hsame.d⟩
  · have hfollows : StoredFollows s.writeback s1 := by
      obtain hto | ⟨_, _, _, _, _, -, -, hto⟩ := hgrows <;> exact hto.follows
    have hkept := hwb.trans (DataChange.fetchKept hc hfollows)
    exact .inl ⟨hkept.trans ⟨rfl, rfl, rfl, rfl, .of_eq rfl rfl, .inl ⟨rfl, rfl⟩⟩, hsame.x, hsame.d⟩
  · have hfollows : StoredFollows s.writeback s1 := by
      obtain ⟨_, _, _, -, -, hto⟩ | ⟨-, hto⟩ := hgrows <;> exact hto.follows
    obtain ⟨s2, r, hexec, hfetch, rfl⟩ := advance_next hadv
    obtain ⟨hkept2, hword⟩ := executeStage_fetchKept hexec
    obtain ⟨hkept3, hdecoded, hx⟩ := decodeStage_fetchKept (oldX := s.x) (mout := mout) (s := s2)
    have hkept := ((hwb.trans (DataChange.fetchKept hc hfollows)).trans hkept2).trans hkept3
    refine .inr ⟨_, r, _, _, mout, hkept, ⟨hdecoded, ?_⟩, hfetch, rfl⟩
    intro v hv
    obtain ⟨predPc, hd2⟩ := hx v hv
    exact ⟨predPc, hsame.d.symm.trans (hword _ _ _ hd2)⟩

/-- A step keeps the fetch side's invariant, and `X` decoded. -/
theorem step_fetchInv (hd : DataInv s) (hb : BytesInv s) (hf : FetchInv s) (hx : s.decodedX = true) (h : step s = .next t) :
    FetchInv t ∧ t.decodedX = true := by
  obtain ⟨hkept, htx, -⟩ | ⟨u, r, bp, spent, mout, hkept, hdecoded, hfetch, rfl⟩ := step_fetch hd hb h
  · refine ⟨hf.kept hkept, Eq.trans ?_ hx⟩
    rw [State.decodedX, State.decodedX, htx]
  · obtain ⟨hinv, -⟩ := fetchStage_fetches (hf.kept hkept) hkept.follows.pmem hfetch
    refine ⟨hinv.follows (.of_eq rfl rfl) rfl rfl hinv.status, Eq.trans ?_ hdecoded.decoded⟩
    rw [State.decodedX, State.decodedX]
    dsimp only
    rw [(fetchStage_changes hfetch).x_m_eq.1]

/-- A step keeps the fetch side's translations in agreement with the page table, and the words in `D` and `X` those of the
program. -/
theorem step_fetchTrans (hd : DataInv s) (hb : BytesInv s) (hf : FetchInv s) (hs : FetchTrans s) (h : step s = .next t) :
    FetchTrans t ∧ (FetchedWordInv s → FetchedWordInv t) := by
  obtain ⟨hkept, htx, htd⟩ | ⟨u, r, bp, spent, mout, hkept, hdecoded, hfetch, rfl⟩ := step_fetch hd hb h
  · refine ⟨hs.kept hkept, fun ⟨hwd, hwx⟩ => ⟨fun pc word predPc hinstr => ?_, fun v hv => ?_⟩⟩
    · exact (hwd pc word predPc (htd ▸ hinstr)).follows hkept.follows hkept.ptbr
    · exact (hwx v (htx ▸ hv)).follows hkept.follows hkept.ptbr
  · obtain ⟨-, htrans⟩ := fetchStage_fetches (hf.kept hkept) hkept.follows.pmem hfetch
    obtain ⟨hr, hword⟩ := htrans (hs.kept hkept)
    refine ⟨⟨hr.tlb, hr.walk, hr.address⟩, fun ⟨hwd, _⟩ => ⟨hword, fun v hv => ?_⟩⟩
    obtain ⟨predPc, hinstr⟩ := hdecoded.word v ((fetchStage_changes hfetch).x_m_eq.1.symm.trans hv)
    obtain ⟨hst, hm, hp⟩ := (fetchStage_changes hfetch).memory_eq
    have hfollows : StoredFollows s { r with w := mout } := hkept.follows.trans (.of_eq hst hm)
    exact (hwd _ _ _ hinstr).follows hfollows (hp.trans hkept.ptbr)

end

/-- Settles O55: the data side, the stored bytes, the fetch side and latch `X` each keep their part. -/
theorem invariantKept : Obligations.InvariantKept := by
  intro s t hinv hstep
  obtain ⟨hfetch, hx⟩ := step_fetchInv hinv.dataInv hinv.bytesInv hinv.fetchInv hinv.2.1 hstep
  exact .of_parts (step_keeps hinv.dataInv hstep).1 (step_bytes hinv.dataInv hinv.bytesInv hstep).1 hfetch hx

theorem TranslationInv.fetchTrans {s : State} (h : TranslationInv s) : FetchTrans s := by
  obtain ⟨htlb, -, hwalk, -, haddr, -⟩ := h
  refine ⟨htlb, hwalk, fun pa hpa => haddr pa ?_⟩
  cases hfs : s.fs <;> rw [hfs] at hpa <;> cases hpa
  case iDeferred => exact .inl rfl
  case iFill => exact .inr ⟨_, _, rfl⟩

/-- Settles O59: the word fetched is the backing store's at an address of the page table, and moves to `X` with its PC. -/
theorem fetchedWordsAreTheProgram : Obligations.FetchedWordsAreTheProgram := fun _ _ hinv htrans hwords hstep =>
  (step_fetchTrans hinv.dataInv hinv.bytesInv hinv.fetchInv htrans.fetchTrans hstep).2 hwords

end Sys2Proof.Machine

namespace Sys2Proof.Machine

/-! ## The data side's translations (R81 to R91, R108) -/

/-- A data TLB, a status and a descriptor agree with the page table of `s`: the TLB's slots, the walk in progress, and the
address the status holds. -/
structure TransOf (s : State) (tlb : Tlb) (ms : MemStatus) (m : MLatch) : Prop where
  slots : s.tlbAgrees tlb
  walk : ∀ issued va size, ms = .dTlb .second issued → m.access = some (va, size) → s.l2aAgrees tlb va
  address : ∀ pa va size, ms.address = some pa → m.access = some (va, size) → s.tableClean (superpage va) = true →
    s.tableAddress va = some pa

/-- The data side of `s` agrees with its page table. -/
def DataTrans (s : State) : Prop := TransOf s s.dtlb s.ms s.m

theorem MemStatus.address_eq_some {ms : MemStatus} {pa : PAddr} : ms.address = some pa ↔
    ms = .dDeferred pa ∨ (∃ way vpa issued, ms = .dEvict pa way vpa issued) ∨ (∃ way issued, ms = .dFill pa way issued) ∨
      ∃ issued, ms = .dWriteThrough pa issued := by
  cases ms <;> simp [MemStatus.address]

theorem FetchStatus.address_eq_some {fs : FetchStatus} {pa : PAddr} : fs.address = some pa ↔
    fs = .iDeferred pa ∨ ∃ way issued, fs = .iFill pa way issued := by
  cases fs <;> simp [FetchStatus.address]

/-- The block's translation invariant is that of its two sides. -/
theorem translationInv_iff {s : State} : TranslationInv s ↔ FetchTrans s ∧ DataTrans s := by
  constructor
  · intro h
    obtain ⟨-, hdtlb, -, hwalk, -, haddr⟩ := id h
    exact ⟨h.fetchTrans, hdtlb, hwalk,
      fun pa va size hpa hva => haddr pa va size hva (MemStatus.address_eq_some.1 hpa)⟩
  · rintro ⟨⟨hitlb, hiwalk, hiaddr⟩, hdtlb, hdwalk, hdaddr⟩
    exact ⟨hitlb, hdtlb, hiwalk, hdwalk, fun pa hpa => hiaddr pa (FetchStatus.address_eq_some.2 hpa),
      fun pa va size hva hpa => hdaddr pa va size (MemStatus.address_eq_some.2 hpa) hva⟩

section
variable {s t : State} {op : DataOp} {pa : PAddr} {way : Nat} {tlb : Tlb} {ms : MemStatus} {m : MLatch}
  {mout : PAddr → List (Option Byte) → WLatch}

theorem TransOf.follows (h : TransOf s tlb ms m) (hf : StoredFollows s t) (hp : t.ptbr = s.ptbr) : TransOf t tlb ms m where
  slots := h.slots.follows hf hp
  walk := fun issued va size hms hva => (h.walk issued va size hms hva).follows hf hp
  address := fun pa va size hms hva hclean =>
    (hf.tableAddress hp hclean).trans (h.address pa va size hms hva (hf.walkTable hp hclean).1)

theorem TransOf.dataTrans (h : TransOf s t.dtlb t.ms s.m) (hM : t.m = s.m) (hf : StoredFollows s t)
    (hp : t.ptbr = s.ptbr) : DataTrans t := by
  rw [← hM] at h
  exact h.follows hf hp

theorem TransOf.of_idle (h : s.tlbAgrees tlb) : TransOf s tlb .idle m := ⟨h, nofun, nofun⟩

/-! ### What a cycle of the data cache leaves in the status -/

/-- A cycle of the data cache at `pa` leaves the data TLB, and the status idle, or with that address. -/
def DataResult.StaysAt (tlb : Tlb) (pa : PAddr) : DataResult → Prop
  | .served t _ _ => t.dtlb = tlb ∧ t.ms = .idle
  | .stall t => t.dtlb = tlb ∧ t.ms.address = some pa
  | .stop _ => True

theorem writeThroughStep_staysAt (s : State) (pa : PAddr) (way : Nat) (size : AccessSize) (value : Word)
    (issued spent : Bool) : (writeThroughStep s pa way size value issued spent).StaysAt s.dtlb pa := by
  unfold writeThroughStep
  cases spent
  case true => exact ⟨rfl, rfl⟩
  obtain ⟨_, hw⟩ | ⟨_, latency, hw | hw⟩ := physWrite_cases s issued pa.toNat (knownBytes size value)
  all_goals rw [if_neg Bool.false_ne_true, hw]
  · trivial
  · exact ⟨rfl, rfl⟩
  · exact ⟨rfl, rfl⟩

theorem serveHit_staysAt (s : State) (op : DataOp) (pa : PAddr) (way : Nat) (spent : Bool) :
    (serveHit s op pa way spent).StaysAt s.dtlb pa := by
  cases op with
  | load size => exact ⟨rfl, rfl⟩
  | store size value =>
    unfold serveHit
    cases s.writeBack
    case true => exact ⟨rfl, rfl⟩
    case false => exact writeThroughStep_staysAt s pa way size value _ spent

theorem fillStep_staysAt (s : State) (op : DataOp) (pa : PAddr) (way : Nat) (issued : Bool) :
    (fillStep s op pa way issued).StaysAt s.dtlb pa := by
  obtain ⟨value, rfl, hf⟩ | ⟨-, hf⟩ := fillStep_cases s op pa way issued
  · rw [hf]
    exact (serveHit_staysAt _ _ pa way false :)
  rw [hf]
  obtain ⟨_, hr⟩ | ⟨_, latency, hr | hr⟩ := physRead_cases s s.pmem issued (lineBase Config.dline pa) Config.dline
  all_goals rw [hr]
  · trivial
  · exact ⟨rfl, rfl⟩
  · exact (serveHit_staysAt _ op pa way true :)

theorem evictStep_staysAt (s : State) (op : DataOp) (pa : PAddr) (way : Nat) (victimPa : PAddr) (issued : Bool) :
    (evictStep s op pa way victimPa issued).StaysAt s.dtlb pa := by
  unfold evictStep
  obtain ⟨_, hw⟩ | ⟨_, latency, hw | hw⟩ := physWrite_cases s issued victimPa.toNat (s.dLine pa way).data
  all_goals rw [hw]
  · trivial
  · exact ⟨rfl, rfl⟩
  · dsimp only
    split
    · exact (serveHit_staysAt _ _ pa way true :)
    · exact ⟨rfl, rfl⟩

theorem startMiss_staysAt (s : State) (op : DataOp) (pa : PAddr) : (startMiss s op pa).StaysAt s.dtlb pa := by
  obtain ⟨way, s', hp, ⟨-, hm⟩ | ⟨-, hm⟩⟩ := startMiss_cases s op pa
  all_goals
    obtain ⟨victims, draws, rfl⟩ := pickVictim_eq hp.symm
    rw [hm]
  · exact (evictStep_staysAt _ op pa way _ false :)
  · exact (fillStep_staysAt _ op pa way false :)

theorem dcacheAccess_staysAt (s : State) (op : DataOp) (pa : PAddr) (spent : Bool) :
    (dcacheAccess s op pa spent).StaysAt s.dtlb pa := by
  unfold dcacheAccess
  split
  · exact serveHit_staysAt s op pa _ spent
  · cases spent
    case true => exact ⟨rfl, rfl⟩
    rw [if_neg Bool.false_ne_true]
    split
    · exact evictStep_staysAt s op pa _ _ _
    · exact fillStep_staysAt s op pa _ _
    all_goals exact startMiss_staysAt s op pa

/-! ### A cycle of the memory stage -/

/-- A cycle of the memory stage leaves a TLB, a walk and an address that agree with the page table of `s`. -/
def MemResult.Translates (s : State) : MemResult → Prop
  | .out t _ _ => s.tlbAgrees t.dtlb ∧ t.ms = .idle
  | .stall t => TransOf s t.dtlb t.ms s.m
  | .halt t _ _ _ => TransOf s t.dtlb t.ms s.m
  | .stop _ => True

theorem DataResult.StaysAt.translates {r : DataResult} (h : r.StaysAt tlb pa) (htlb : s.tlbAgrees tlb) {va : Word}
    {size : AccessSize} (hva : s.m.access = some (va, size))
    (haddr : s.tableClean (superpage va) = true → s.tableAddress va = some pa) (w : List (Option Byte) → WLatch) :
    (r.toMem w).Translates s := by
  cases r with
  | stop x => trivial
  | served t bytes spent =>
    obtain ⟨rfl, hms⟩ := h
    exact ⟨htlb, hms⟩
  | stall t =>
    obtain ⟨rfl, hms⟩ := h
    refine ⟨htlb, fun issued va' size' hwalk => ?_, fun q va' size' hq hva' => ?_⟩
    · rw [hwalk] at hms
      cases hms
    · cases hva.symm.trans hva'
      cases hms.symm.trans hq
      exact haddr

/-- A page fault leaves the TLB as it was (R84, R86). -/
theorem translate_pageFault {side : Side} {mem : Memory} {spent : Bool} {walk : Option (WalkStep × Bool)} {va : Word}
    (h : translate side mem spent walk va s = .pageFault t) :
    ∃ latency, t = { s with latency := latency, calls := s.calls + 1 } := by
  by_cases hit : s.tlbHits side va
  · rw [translate_hit hit] at h
    cases h
  obtain hm | hm | hm | ⟨-, -, latency, hm | ⟨-, hm⟩ | ⟨-, -, hm⟩ | ⟨-, -, hm⟩⟩ :=
    translate_miss side mem spent walk va s hit
  all_goals
    rw [hm] at h
    cases h
  exact ⟨latency, rfl⟩

theorem State.beganWith_pmem (s : State) : s.beganWith s.pmem := fun _ h => absurd rfl h

theorem translateAndAccess_translates (h : DataTrans s) {va : Word} {size : AccessSize}
    (hva : s.m.access = some (va, size)) {walk : Option (WalkStep × Bool)}
    (hwalk : ∀ issued, walk = some (.second, issued) → s.ms = .dTlb .second issued) (pc : Word) :
    (translateAndAccess s op pc va walk mout).Translates s := by
  have hagrees := translate_agrees (side := .data) s.beganWith_pmem h.slots
    (fun issued hw => h.walk issued va size (hwalk issued hw) hva) false
  unfold translateAndAccess
  cases ht : translate .data s.pmem false walk va s with
  | hit pa =>
    rw [ht] at hagrees
    exact (dcacheAccess_staysAt s op pa false).translates h.slots hva hagrees _
  | done s' pa =>
    rw [ht] at hagrees
    exact (dcacheAccess_staysAt s' op pa true).translates hagrees.1 hva hagrees.2 _
  | retry s' step issued =>
    rw [ht] at hagrees
    refine ⟨hagrees.1, fun issued' va' size' hms hva' => ?_, nofun⟩
    cases hms
    cases hva.symm.trans hva'
    exact hagrees.2 rfl
  | pageFault s' =>
    obtain ⟨_, rfl⟩ := translate_pageFault ht
    exact h
  | slotMismatch s' =>
    rw [ht] at hagrees
    exact hagrees.elim
  | stop x => trivial

theorem dataAccess_translates (h : DataTrans s) {va : Word} (hva : s.m.access = some (va, op.size)) (pc : Word) :
    (dataAccess s op pc va mout).Translates s := by
  have cached : ∀ q, s.ms.address = some q → ((dcacheAccess s op q false).toMem (mout q)).Translates s := fun q hq =>
    (dcacheAccess_staysAt s op q false).translates h.slots hva (h.address q va op.size hq hva) _
  unfold dataAccess
  split
  · exact h
  · cases hms : s.ms with
    | idle => exact translateAndAccess_translates (walk := none) h hva nofun pc
    | dTlb step issued =>
      refine translateAndAccess_translates h hva (fun issued' hw => ?_) pc
      cases hw
      exact hms
    | dDeferred q => exact cached q (by rw [hms]; rfl)
    | dEvict q way victimPa issued => exact cached q (by rw [hms]; rfl)
    | dFill q way issued => exact cached q (by rw [hms]; rfl)
    | dWriteThrough q issued => exact cached q (by rw [hms]; rfl)

theorem memoryStage_translates (h : DataTrans s) : (memoryStage s).Translates s := by
  cases hacc : s.m.access with
  | none =>
    obtain ⟨w, hr⟩ | ⟨reason, pc, va, hr⟩ := memoryStage_noAccess hacc
    · rw [hr]; exact ⟨h.slots, rfl⟩
    · rw [hr]; exact h
  | some access =>
    unfold memoryStage
    cases hm : s.m with
    | load pc rd va size signed => exact dataAccess_translates (op := .load size) h (by rw [hm]; rfl) pc
    | store pc va size value => exact dataAccess_translates (op := .store size value) h (by rw [hm]; rfl) pc
    | bubble | reg | noEffect | token => rw [hm] at hacc; cases hacc

/-! ### A step -/

/-- Execute, decode and fetch leave the data TLB (R79). -/
theorem advance_dtlb {start : State} {w : WLatch} {spent : Bool} (h : advance start w spent s = .next t) :
    t.dtlb = s.dtlb := by
  obtain ⟨s1, s2, hexec, hfetch, rfl⟩ := advance_next h
  obtain ⟨_, _, _, _, _, _, rfl⟩ := executeStage_changes hexec
  obtain ⟨_, _, _, _, _, _, _, _, _, rfl⟩ := fetchStage_changes hfetch
  obtain ⟨_, hd⟩ | ⟨_, _, _, hd⟩ | ⟨_, _, _, _, ⟨_, _, _, _, hd⟩ | ⟨_, hd⟩⟩ := decodeStage_cases start.x w
    { s with m := _, pc := _, fs := _, d := _, bp := _, log := _ }
  all_goals
    rw [hd]

theorem step_dataTrans (hd : DataInv s) (hb : BytesInv s) (h : DataTrans s) (hstep : step s = .next t) : DataTrans t := by
  have hfollows : StoredFollows s t := (step_bytes hd hb hstep).2
  have hptbr : t.ptbr = s.ptbr := (step_ptbr_params hstep).1
  have hwb : DataTrans s.writeback := by
    have hto := h.follows (State.writeback_bytesTo hb).follows (by simp)
    unfold DataTrans
    simpa using hto
  have hback : StoredFollows s.writeback t := by
    refine ⟨fun a ha => hfollows.grows a (by simpa using ha), fun a ha => hfollows.pmem a (by simpa using ha)⟩
  have hptbr' : t.ptbr = s.writeback.ptbr := by simpa using hptbr
  have htrans := memoryStage_translates hwb
  have hc := memoryStage_changes s.writeback
  obtain ⟨-, rfl⟩ | ⟨-, ⟨s1, reason, pc, va, hm, rfl⟩ | ⟨s1, hm, rfl⟩ | ⟨s1, mout, spent, hm, hadv⟩⟩ := step_next hstep
  · exact h
  all_goals
    rw [hm] at hc htrans
    have hM := (DataChange.sameLatches hc).1.m
  · exact TransOf.dataTrans (by exact htrans) hM hback hptbr'
  · exact TransOf.dataTrans (by exact htrans) hM hback hptbr'
  · obtain ⟨htlb, hidle⟩ := htrans
    have hms : t.ms = .idle := (advance_sameDataSide hadv).1.ms.trans hidle
    unfold DataTrans
    rw [hms, advance_dtlb hadv]
    exact .of_idle (htlb.follows hback hptbr')

end

/-- Settles O58: each side's translations agree with the page table as it was, and stored bytes are no part of a clean
superpage's entries. -/
theorem translationKept : Obligations.TranslationKept := by
  intro s t hinv htrans hstep
  obtain ⟨hfetch, hdata⟩ := translationInv_iff.1 htrans
  exact translationInv_iff.2 ⟨(step_fetchTrans hinv.dataInv hinv.bytesInv hinv.fetchInv hfetch hstep).1,
    step_dataTrans hinv.dataInv hinv.bytesInv hdata hstep⟩

end Sys2Proof.Machine

namespace Sys2Proof.Machine

/-! ## The launch state meets the invariants (R430) -/

theorem Cache.row_empty {lineSize rows ways index way : Nat} {l : Line}
    (h : (Cache.empty lineSize rows ways).row index way = some l) :
    l.valid = false ∧ l.dirty = false ∧ l.data.length = lineSize := by
  obtain ⟨set, hset, hl⟩ := Cache.row_eq_some.1 h
  exact (Cache.empty_rows _ _ _ set (List.mem_of_getElem? hset)).2 l (List.mem_of_getElem? hl)

/-- A cache after reset is in form: with no valid row, no tag is held twice. -/
theorem Cache.formed_empty (lineSize rows ways : Nat) : (Cache.empty lineSize rows ways).Formed lineSize rows ways where
  sets := List.length_replicate
  assoc := fun index hi => by simp [Cache.ways, Cache.empty, List.getD_eq_getElem?_getD, hi]
  bytes := fun index way l hl => (Cache.row_empty hl).2.2
  unique := fun index w w' l l' hl _ hv => by rw [(Cache.row_empty hl).1] at hv; cases hv

section
variable {params : Params} {mem : Memory}

theorem dataInv_launch (hparams : params.wf = true) (hmem : mem.wf = true) (resetPc : Word) (ptbr : PAddr)
    (regs : Vector Word 32) : DataInv (State.launch params resetPc ptbr regs mem) := by
  have hformed := Cache.formed_empty Config.dline params.dcacheRows params.dcacheWays
  have hnone : ∀ {index way : Nat} {l : Line},
      (Cache.empty Config.dline params.dcacheRows params.dcacheWays).row index way = some l → l.valid ≠ true := fun hl hv => by rw [(Cache.row_empty hl).1] at hv; cases hv
  refine .of_idle ?_ rfl
  exact
    { params_wf := hparams
      pmem_wf := hmem
      rows := hformed.sets
      ways := hformed.assoc
      lineSize := hformed.bytes
      unique := hformed.unique
      addressed := fun _ _ _ hl hv => absurd hv (hnone hl)
      clean := fun _ _ _ hl hv => absurd hv (hnone hl)
      undirtied := fun _ _ _ _ hl => (Cache.row_empty hl).2.1 }

theorem bytesInv_launch (hbound : ∀ c ∈ mem, c.1 < params.pmemSize) (resetPc : Word) (ptbr : PAddr)
    (regs : Vector Word 32) : BytesInv (State.launch params resetPc ptbr regs mem) where
  rising := rfl
  bounded := List.all_eq_true.2 fun c hc => decide_eq_true (hbound c hc)
  lines := fun _ _ _ hl hv => by rw [(Cache.row_empty hl).1] at hv; cases hv

theorem fetchInv_launch (hparams : params.wf = true) (resetPc : Word) (ptbr : PAddr) (regs : Vector Word 32) :
    FetchInv (State.launch params resetPc ptbr regs mem) where
  params_wf := hparams
  formed := Cache.formed_empty _ _ _
  lines := fun _ _ _ hl hv => by rw [(Cache.row_empty hl).1] at hv; cases hv
  undirtied := fun _ _ _ hl => (Cache.row_empty hl).2.1
  status := rfl

theorem inv_launch (hparams : params.wf = true) (hmem : mem.wf = true) (hbound : ∀ c ∈ mem, c.1 < params.pmemSize)
    (resetPc : Word) (ptbr : PAddr) (regs : Vector Word 32) : Inv (State.launch params resetPc ptbr regs mem) :=
  .of_parts (dataInv_launch hparams hmem resetPc ptbr regs) (bytesInv_launch hbound resetPc ptbr regs)
    (fetchInv_launch hparams resetPc ptbr regs) rfl

/-- A TLB after reset has no valid slot to disagree. -/
theorem tlbAgrees_empty (s : State) : s.tlbAgrees Tlb.empty := by
  intro i hv
  rw [Tlb.empty_slot] at hv
  cases hv

end

/-- Settles O54: after reset every latch is a bubble, every row and slot is invalid, and no access is in progress. -/
theorem resetMeetsInvariants : Obligations.ResetMeetsInvariants := by
  refine ⟨fun params resetPc ptbr regs mem hparams hmem hbound => ⟨inv_launch hparams hmem hbound resetPc ptbr regs, ?_,
    ⟨nofun, nofun⟩, rfl, rfl, nofun, nofun, nofun, nofun⟩, ?_, rfl⟩
  · exact translationInv_iff.2 ⟨.of_noAddress (tlbAgrees_empty _) nofun rfl, .of_idle (tlbAgrees_empty _)⟩
  · exact inv_launch (mem := []) (by decide) rfl nofun _ _ _

end Sys2Proof.Machine

namespace Sys2Proof.Machine

/-! ## A walk whose calls complete in the cycle they are made (R83 to R87, R62) -/

section
variable {s : State} {side : Side} {va : Word} {walk : Option (WalkStep × Bool)} {rest : List Bool} {pa : PAddr}

theorem State.tlb_answered (s : State) (side : Side) (rest : List Bool) : (s.answered rest).tlb side = s.tlb side := by
  cases side <;> rfl

/-- Walk step 1 reads the page table's own entry. -/
theorem translate_first (hmiss : ¬s.tlbHits side va) (hstep : (walk.getD (.first, false)).1 = .first)
    (hl : s.latency = true :: rest)
    (hfree : storedTouches s.stored (level1Address s.ptbr (superpage va)).toNat 4 = false)
    (hin : (level1Address s.ptbr (superpage va)).toNat + 4 ≤ s.params.pmemSize) :
    translate side s.pmem false walk va s =
      if pteValid (s.pte1 (superpage va)) then
        .retry ((s.answered rest).setTlb side ((s.tlb side).setL2a (level2Address (s.pte1 (superpage va)) (superpage va))))
          .second false
      else .pageFault (s.answered rest) := by
  have hread := translate_answered (walk := walk) hmiss hstep s.pmem hfree hin hl
  rw [if_pos rfl] at hread
  refine hread.trans ?_
  change walkEntry side .first va (s.pte1 (superpage va)) (s.answered rest) = _
  unfold walkEntry
  cases pteValid (s.pte1 (superpage va))
  · rfl
  · rw [State.tlb_answered]
    rfl

/-- Walk step 2 reads the page table's own entry, when `L2A` holds its address. -/
theorem translate_second (hmiss : ¬s.tlbHits side va) (hstep : (walk.getD (.first, false)).1 = .second)
    (hl : s.latency = true :: rest)
    (hl2a : (s.tlb side).l2a = level2Address (s.pte1 (superpage va)) (superpage va))
    (hfree : storedTouches s.stored (level2Address (s.pte1 (superpage va)) (superpage va)).toNat 4 = false)
    (hin : (level2Address (s.pte1 (superpage va)) (superpage va)).toNat + 4 ≤ s.params.pmemSize) :
    let e := s.entryAt (level2Address (s.pte1 (superpage va)) (superpage va))
    translate side s.pmem false walk va s =
      if pteValid e then
        .done ((s.answered rest).setTlb side
            ((s.tlb side).install (vpnSlot va) { valid := true, tag := superpage va, ppn := pteNumber e }))
          (pteNumber e ++ superpageOffset va)
      else .pageFault (s.answered rest) := by
  intro e
  rw [← hl2a] at hfree hin
  have hread := translate_answered (walk := walk) hmiss hstep s.pmem hfree hin hl
  rw [if_pos rfl] at hread
  refine hread.trans ?_
  have he : pteOf (walkAddress s side .second va).toNat (s.pmem.readBytes (walkAddress s side .second va).toNat 4) = e := by
    rw [walkAddress, hl2a]
    rfl
  rw [he, walkEntry]
  cases pteValid e
  · rfl
  · simp [vpnSlot_eq_spSlot, State.tlb_answered]

/-- The page table gives an address exactly when both entries are valid, and then the second's number. -/
theorem State.tableAddress_eq_some : s.tableAddress va = some pa ↔
    pteValid (s.pte1 (superpage va)) = true ∧
      pteValid (s.entryAt (level2Address (s.pte1 (superpage va)) (superpage va))) = true ∧
      pteNumber (s.entryAt (level2Address (s.pte1 (superpage va)) (superpage va))) ++ superpageOffset va = pa := by
  rw [State.tableAddress, State.walkTable]
  cases h1 : pteValid (s.pte1 (superpage va)) with
  | false => simp
  | true => cases h2 : pteValid (s.entryAt (level2Address (s.pte1 (superpage va)) (superpage va))) <;> simp [h2]

theorem State.samePageOffset_of_tableAddress (h : s.tableAddress va = some pa) : samePageOffset pa va = true := by
  obtain ⟨-, -, rfl⟩ := State.tableAddress_eq_some.1 h
  exact samePageOffset_append _ va

end

/-! ## The three cycles of a cold fetch (R433) -/

section
variable {s t : State} {bp : Vector BpEntry 32} {issued : Bool} {rest : List Bool} {pa : PAddr} {mem : Memory}

/-- Walk step 1: the second-level address goes to `L2A`. -/
theorem fetchStage_first (hfs : s.fs = .fresh) (hal : misalignedFetch s.pc = false) (hmiss : ¬s.tlbHits .instr s.pc)
    (hl : s.latency = true :: rest) (hclean : s.tableClean (superpage s.pc) = true)
    (hin : (level1Address s.ptbr (superpage s.pc)).toNat + 4 ≤ s.params.pmemSize)
    (hpte : pteValid (s.pte1 (superpage s.pc)) = true) :
    fetchStage bp s.pmem false s =
      .next { s.answered rest with
        itlb := s.itlb.setL2a (level2Address (s.pte1 (superpage s.pc)) (superpage s.pc))
        d := .bubble
        fs := .iTlb .second false } := by
  simp only [State.tableClean, Bool.and_eq_true, Bool.not_eq_true'] at hclean
  rw [fetchStage_of_walk hal (.inl ⟨hfs, rfl⟩), fetchTranslate,
    translate_first hmiss rfl hl hclean.1 hin, if_pos hpte]
  rfl

/-- Walk step 2: the slot is installed, and the fill waits for the next cycle's call. -/
theorem fetchStage_second (hfs : s.fs = .iTlb .second issued) (hal : misalignedFetch s.pc = false)
    (hmiss : ¬s.tlbHits .instr s.pc) (hl : s.latency = true :: rest) (hclean : s.tableClean (superpage s.pc) = true)
    (hl2a : s.itlb.l2a = level2Address (s.pte1 (superpage s.pc)) (superpage s.pc))
    (hin : (level2Address (s.pte1 (superpage s.pc)) (superpage s.pc)).toNat + 4 ≤ s.params.pmemSize)
    (hpa : s.tableAddress s.pc = some pa) (hcold : hitWay (s.icache.ways (s.iIndex pa)) (s.iTag pa) = none) :
    ∃ itlb, fetchStage bp s.pmem false s =
      .next { s.answered rest with itlb := itlb, d := .bubble, fs := .iDeferred pa } := by
  simp only [State.tableClean, Bool.and_eq_true, Bool.not_eq_true'] at hclean
  obtain ⟨-, hpte, rfl⟩ := State.tableAddress_eq_some.1 hpa
  rw [fetchStage_of_walk hal (.inr ⟨_, _, hfs, rfl⟩), fetchTranslate,
    translate_second hmiss rfl hl hl2a hclean.2 hin, if_pos hpte]
  exact ⟨_, icacheAccess_defers hcold (by simp [State.setTlb, State.answered, hfs])⟩

/-- The word of a line read from the backing store is its word. -/
theorem slice_readBytes {base k m n : Nat} (h : k + n ≤ m) (mem : Memory) :
    slice (mem.readBytes base m) k n = mem.readBytes (base + k) n := by
  refine List.ext_getElem? fun i => ?_
  simp only [slice, List.getElem?_take, List.getElem?_drop, Memory.getElem?_readBytes]
  by_cases hi : i < n
  · rw [if_pos hi, if_pos hi, if_pos (by omega), Nat.add_assoc]
  · rw [if_neg hi, if_neg hi]

/-- A fill whose read completes delivers the word with its prediction. -/
theorem icacheFill_answered (hat : s.fetchAt pa) (hl : s.latency = true :: rest)
    (hfree : storedTouches s.stored pa.toNat 4 = false) (hin : pa.toNat / 16 * 16 + 16 ≤ s.params.pmemSize) (way : Nat) :
    ∃ t, icacheFill bp s.pmem pa way issued s = .next t ∧ t.d = .instr s.pc (s.wordAt pa) (predict s.params bp s.pc) ∧
      t.pc = predict s.params bp s.pc ∧ t.fs = .fresh ∧ t.w = s.w := by
  have hslice : slice (s.pmem.readBytes (lineBase Config.iline pa) Config.iline) (lineOffset Config.iline pa) 4 =
      s.pmem.readBytes pa.toNat 4 := by
    have hword := slice_readBytes (base := lineBase Config.iline pa) hat.fits s.pmem
    rwa [lineBase, Nat.div_add_mod'] at hword
  rw [icacheFill, physRead_answered (pa := lineBase Config.iline pa) (n := Config.iline) hl hin, if_pos rfl]
  dsimp only
  rw [icacheServe, if_neg (by exact Bool.eq_false_iff.1 hfree), hslice]
  exact ⟨_, rfl, rfl, rfl, rfl, rfl⟩

/-- The fill begins in the cycle after the walk, and its read completes there. -/
theorem fetchStage_deferred (hfs : s.fs = .iDeferred pa) (hat : s.fetchAt pa) (hl : s.latency = true :: rest)
    (hfree : storedTouches s.stored pa.toNat 4 = false) (hin : pa.toNat / 16 * 16 + 16 ≤ s.params.pmemSize)
    (hcold : hitWay (s.icache.ways (s.iIndex pa)) (s.iTag pa) = none) :
    ∃ t, fetchStage bp s.pmem false s = .next t ∧ t.d = .instr s.pc (s.wordAt pa) (predict s.params bp s.pc) ∧
      t.pc = predict s.params bp s.pc ∧ t.fs = .fresh ∧ t.w = s.w := by
  obtain ⟨way, u, hpick⟩ : ∃ way u, pickVictim s (victimCandidates false (s.icache.ways (s.iIndex pa))) = (way, u) :=
    ⟨_, _, rfl⟩
  obtain ⟨victims, draws, rfl⟩ := pickVictim_eq hpick
  rw [fetchStage_of_fetchReaches hat.2 (.inl hfs), icacheAccess_of_miss hcold (by simp [hfs]) hpick]
  exact (icacheFill_answered (s := { s with victims := victims, draws := draws }) hat hl hfree hin way :)

/-- A running machine with nothing in it but the fetch. -/
structure OnlyFetches (s : State) : Prop where
  running : s.halt = .running
  d : s.d = .bubble
  x : s.x = .bubble
  m : s.m = .bubble
  w : s.w = .bubble
  ms : s.ms = .idle

/-- A cycle of such a machine is its fetch stage's. -/
theorem OnlyFetches.step (h : OnlyFetches s) (hfetch : fetchStage s.bp s.pmem false s = .next t) (hw : t.w = .bubble) :
    step s = .next t := by
  obtain ⟨hrun, hd, hx, hm, hwb, hms⟩ := h
  have hmem : memoryStage s.writeback = .out s .bubble false := by
    rw [State.writeback_of_bubble hwb, memoryStage, hm]
    dsimp only
    rw [← hm, ← hms]
  have hexec : executeStage s = .next s := by
    rw [executeStage, hx]
    dsimp only
    rw [← hx, ← hm]
  have hdecode : decodeStage s.x .bubble s = s := by
    rw [decodeStage, hd]
    dsimp only
    rw [← hd, ← hx]
  rw [Machine.step, cycle, hrun]
  dsimp only
  rw [hmem]
  dsimp only
  rw [advance, hexec]
  dsimp only
  rw [hdecode, Bool.false_and, hfetch]
  dsimp only
  rw [← hw]

theorem hitWay_empty (lineSize rows ways index tag : Nat) :
    hitWay ((Cache.empty lineSize rows ways).ways index) tag = none :=
  hitWay_eq_none.2 fun _ _ hl hv => by rw [(Cache.row_empty hl).1] at hv; exact Bool.false_ne_true hv.1

/-- A TLB after reset misses, whatever its `L2A`. -/
theorem slotFor_setL2a_empty (a : PAddr) (va : Word) : ((Tlb.empty.setL2a a).slotFor va).valid = false :=
  congrArg TlbSlot.valid (Tlb.empty_slot (vpnSlot va))

end

/-- Settles O32: the two walk steps and the fill, each with the one call of its cycle. -/
theorem firstFetchFromReset : Obligations.FirstFetchFromReset := by
  intro params resetPc ptbr regs mem more pa s0 _ hpc hpa hin1 hin2 hfill
  have hal : misalignedFetch resetPc = false := by
    rw [← Bool.not_eq_true, misalignedFetch_iff, not_not]
    exact hpc
  obtain ⟨hpte1, -, -⟩ := State.tableAddress_eq_some.1 hpa
  have hmiss : ∀ a, ¬((Tlb.empty.setL2a a).slotFor resetPc).valid = true := fun a => by
    rw [slotFor_setL2a_empty]
    exact Bool.false_ne_true
  have hfetch1 := fetchStage_first (s := s0) (bp := s0.bp) rfl hal (fun hhit => hmiss _ hhit.1) rfl rfl hin1 hpte1
  set t1 : State := { s0.answered (true :: true :: more) with
    itlb := s0.itlb.setL2a (level2Address (s0.pte1 (superpage resetPc)) (superpage resetPc))
    d := .bubble
    fs := .iTlb .second false }
  have hstep1 : step s0 = .next t1 := OnlyFetches.step ⟨rfl, rfl, rfl, rfl, rfl, rfl⟩ hfetch1 rfl
  obtain ⟨itlb, hfetch2⟩ := fetchStage_second (s := t1) (bp := t1.bp) (pa := pa) rfl hal (fun hhit => hmiss _ hhit.1)
    rfl rfl rfl hin2 hpa (hitWay_empty _ _ _ _ _)
  set t2 : State := { t1.answered (true :: more) with itlb := itlb, d := .bubble, fs := .iDeferred pa }
  have hstep2 : step t1 = .next t2 := OnlyFetches.step ⟨rfl, rfl, rfl, rfl, rfl, rfl⟩ hfetch2 rfl
  obtain ⟨t3, hfetch3, hd, hpc3, hfs, hw⟩ := fetchStage_deferred (s := t2) (bp := t2.bp) (pa := pa) rfl
    ⟨State.samePageOffset_of_tableAddress hpa, hal⟩ rfl rfl hfill (hitWay_empty _ _ _ _ _)
  have hstep3 : step t2 = .next t3 := OnlyFetches.step ⟨rfl, rfl, rfl, rfl, rfl, rfl⟩ hfetch3 hw
  exact ⟨t1, t2, t3, hstep1, rfl, rfl, hstep2, rfl, rfl, hstep3, hd, hpc3, hfs⟩

end Sys2Proof.Machine

namespace Sys2Proof.Machine

/-! ## A backing store that answers at once (R62) -/

/-- The backing store fills the physical space, and completes at once at least the next `n` calls. -/
structure State.Prompt (s : State) (n : Nat) : Prop where
  size : s.params.pmemSize = 2 ^ 32
  calls : ∃ more, s.latency = List.replicate n true ++ more

/-- A cycle of the data side that serves the access, or leaves it in a state as `P` says; it does not stop. -/
def DataResult.Soon (P : State → Prop) : DataResult → Prop
  | .served _ _ _ => True
  | .stall t => P t
  | .stop _ => False

/-- A cycle of the memory stage that completes or halts, or leaves a state as `P` says; it does not stop. -/
def MemResult.Soon (P : State → Prop) : MemResult → Prop
  | .out _ _ _ => True
  | .halt _ _ _ _ => True
  | .stall t => P t
  | .stop _ => False

section
variable {s t : State} {n : Nat} {op : DataOp} {pa : PAddr} {way : Nat} {P Q : State → Prop} {exempt : Nat → Prop}

theorem State.Prompt.congr (h : s.Prompt n) (hp : t.params = s.params) (hl : t.latency = s.latency) : t.Prompt n :=
  ⟨hp ▸ h.size, hl ▸ h.calls⟩

/-- One call of the next `n + 1` leaves `n`. -/
theorem State.Prompt.answers (h : s.Prompt (n + 1)) : ∃ rest, s.latency = true :: rest ∧ (s.answered rest).Prompt n := by
  obtain ⟨more, hmore⟩ := h.calls
  exact ⟨_, hmore, h.size, more, rfl⟩

theorem DataResult.Soon.mono {r : DataResult} (h : r.Soon P) (hPQ : ∀ t, P t → Q t) : r.Soon Q := by
  cases r with
  | served t bytes spent => trivial
  | stall t => exact hPQ t h
  | stop x => exact h

theorem MemResult.Soon.imp {r : MemResult} (h : r.Soon P) (hPQ : ∀ t, r = .stall t → P t → Q t) : r.Soon Q := by
  cases r with
  | out t w spent => trivial
  | halt t reason pc va => trivial
  | stall t => exact hPQ t rfl h
  | stop x => exact h

theorem DataResult.Soon.toMem {r : DataResult} (h : r.Soon P) (mout : List (Option Byte) → WLatch) :
    (r.toMem mout).Soon P := by
  cases r with
  | served t bytes spent => trivial
  | stall t => exact h
  | stop x => exact h

/-! ### A cycle of the data cache -/

/-- An access whose write-back is behind it: its next cycle with a call serves it. -/
def State.settled (s : State) : Prop :=
  (∃ q issued, s.ms = .dWriteThrough q issued) ∨ (∃ q way issued, s.ms = .dFill q way issued) ∧ s.writeBack = true

/-- A write with its call free is served. -/
theorem writeThroughStep_soon {size : AccessSize} (h : s.Prompt (n + 1)) (hfit : pa.toNat % 8 + size.bytes ≤ 8)
    (value : Word) (issued : Bool) : (writeThroughStep s pa way size value issued false).Soon fun _ => False := by
  obtain ⟨rest, hl, -⟩ := h.answers
  have hin : pa.toNat + (knownBytes size value).length ≤ s.params.pmemSize := by
    have := pa.isLt
    rw [length_knownBytes, h.size]
    omega
  rw [writeThroughStep, if_neg Bool.false_ne_true, physWrite_answered hl hin, if_pos rfl]
  trivial

theorem serveHit_soon (h : s.Prompt (n + 1)) (hfit : pa.toNat % 8 + op.size.bytes ≤ 8) :
    (serveHit s op pa way false).Soon fun _ => False := by
  cases op with
  | load size => trivial
  | store size value =>
    cases hwb : s.writeBack with
    | true =>
      rw [serveHit_writeBack hwb]
      trivial
    | false =>
      unfold serveHit
      rw [hwb]
      exact writeThroughStep_soon h hfit value _

/-- With its call spent a hit is served, but for a store under write-through, which waits with its write. -/
theorem serveHit_spent_soon (h : s.Prompt n) :
    (serveHit s op pa way true).Soon fun t =>
      t.Prompt n ∧ (∃ q issued, t.ms = .dWriteThrough q issued) ∧ s.writeBack = false := by
  cases op with
  | load size => trivial
  | store size value =>
    cases hwb : s.writeBack with
    | true =>
      rw [serveHit_writeBack hwb]
      trivial
    | false =>
      unfold serveHit
      rw [hwb]
      exact ⟨h.congr rfl rfl, ⟨_, _, rfl⟩, rfl⟩

/-- A fill with its call free is served, but for a smaller store under write-through. -/
theorem fillStep_soon (h : s.Prompt (n + 1)) (hfit : pa.toNat % 8 + op.size.bytes ≤ 8) (issued : Bool) :
    (fillStep s op pa way issued).Soon fun t =>
      t.Prompt n ∧ (∃ q issued, t.ms = .dWriteThrough q issued) ∧ s.writeBack = false := by
  obtain ⟨value, rfl, hf⟩ | ⟨hop, -⟩ := fillStep_cases s op pa way issued
  · rw [hf]
    exact DataResult.Soon.mono (serveHit_soon (h.congr rfl rfl) hfit) fun _ hf => hf.elim
  · obtain ⟨rest, hl, hprompt⟩ := h.answers
    have hin : lineBase Config.dline pa + Config.dline ≤ s.params.pmemSize := by
      have := pa.isLt
      rw [h.size]
      simp only [lineBase, Config.dline]
      omega
    rw [fillStep_answered hop hl hin]
    set u := (s.answered rest).setDLine pa way
      { valid := true, tag := s.dTag pa, data := s.pmem.readBytes (lineBase Config.dline pa) 8, dirty := false }
    have hu : u.Prompt n := hprompt.congr rfl rfl
    exact serveHit_spent_soon hu

/-- A write-back with its call free makes room for the fill, or for the line of an 8-byte store, which is served. -/
theorem evictStep_soon (h : s.Prompt (n + 1)) (hwb : s.writeBack = true) {victimPa : PAddr}
    (hin : victimPa.toNat + (s.dLine pa way).data.length ≤ s.params.pmemSize) (issued : Bool) :
    (evictStep s op pa way victimPa issued).Soon fun t => t.Prompt n ∧ t.settled := by
  obtain ⟨rest, hl, hprompt⟩ := h.answers
  rw [evictStep, physWrite_answered hl hin, if_pos rfl]
  dsimp only
  split
  · unfold installStore
    rw [serveHit_writeBack (by exact hwb)]
    trivial
  · exact ⟨hprompt.congr rfl rfl, .inr ⟨⟨_, _, _, rfl⟩, hwb⟩⟩

/-- A line of the cache lies inside the physical space. -/
theorem Coherent.victim_fits (h : Coherent s exempt) {index : Nat} {l : Line} (hl : s.dcache.row index way = some l)
    (hv : l.valid = true) : l.address Config.dline s.params.dcacheRows index + l.data.length ≤ 2 ^ 32 := by
  have haddr := h.addressed _ _ _ hl hv
  have hsize := h.lineSize _ _ _ hl
  simp only [Line.address, Config.dline] at haddr ⊢
  omega

theorem startMiss_soon (h : s.Prompt (n + 1)) (hcoh : Coherent s exempt) (hfit : pa.toNat % 8 + op.size.bytes ≤ 8) :
    (startMiss s op pa).Soon fun t => t.Prompt n ∧ t.settled := by
  obtain ⟨way, s', hp, hcase⟩ := startMiss_cases s op pa
  have hw : way < s.params.dcacheWays := hcoh.victim_lt pa hp
  obtain ⟨victims, draws, rfl⟩ := pickVictim_eq hp.symm
  have h' : State.Prompt { s with victims := victims, draws := draws } (n + 1) := h.congr rfl rfl
  obtain ⟨hv, hm⟩ | ⟨-, hm⟩ := hcase
  · rw [hm]
    simp only [Bool.and_eq_true] at hv
    refine evictStep_soon h' hv.1.1 ?_ false
    have hrow := hcoh.row_dLine pa hw
    have hto := Nat.mod_eq_of_lt (hcoh.addressed _ _ _ hrow hv.1.2)
    rw [rowAddress, BitVec.toNat_ofNat]
    exact (congrArg (· + (s.dLine pa way).data.length) hto).trans_le
      ((hcoh.victim_fits hrow hv.1.2).trans_eq h.size.symm)
  · rw [hm]
    exact (fillStep_soon h' hfit false).mono fun t ⟨hprompt, hms, _⟩ => ⟨hprompt, .inl hms⟩

/-- An access whose call is free is served, or settled. -/
theorem dcacheAccess_soon (h : s.Prompt (n + 1)) (hd : DataInv s) (hop : s.asks op) (hacc : s.accessAt pa = true)
    (hpa : ∀ q, s.ms.address = some q → q = pa) :
    (dcacheAccess s op pa false).Soon fun t => t.Prompt n ∧ t.settled := by
  have hcoh := hd.coherent_at hop hpa
  have hfit := State.fits_of_accessAt hacc hop
  have hstatus := hd.status
  unfold dcacheAccess
  split
  · exact (serveHit_soon h hfit).mono fun _ hf => hf.elim
  · rw [if_neg Bool.false_ne_true]
    split
    · next q way victimPa issued hms =>
      obtain rfl := hpa q (by rw [hms]; rfl)
      simp only [State.statusOfM, hms, Bool.and_eq_true, decide_eq_true_eq, beq_iff_eq] at hstatus
      obtain ⟨⟨⟨⟨⟨-, hw⟩, hwb⟩, hv⟩, -⟩, hva⟩ := hstatus
      refine evictStep_soon h hwb ?_ issued
      rw [hva, h.size]
      exact hcoh.victim_fits (hcoh.row_dLine q hw) hv
    · exact (fillStep_soon h hfit _).mono fun t ⟨hprompt, hms, _⟩ => ⟨hprompt, .inl hms⟩
    all_goals exact startMiss_soon h hcoh hfit

/-- A settled access whose call is free is served. -/
theorem dcacheAccess_settled (h : s.Prompt (n + 1)) (hd : DataInv s) (hop : s.asks op) (hacc : s.accessAt pa = true)
    (hpa : ∀ q, s.ms.address = some q → q = pa) (hset : s.settled) :
    (dcacheAccess s op pa false).Soon fun _ => False := by
  have hfit := State.fits_of_accessAt hacc hop
  have hstatus := hd.status
  unfold dcacheAccess
  split
  · exact serveHit_soon h hfit
  · next hmiss =>
    rw [if_neg Bool.false_ne_true]
    obtain ⟨q, issued, hms⟩ | ⟨⟨q, way, issued, hms⟩, hwb⟩ := hset
    · obtain rfl := hpa q (by rw [hms]; rfl)
      simp [State.statusOfM, hms, hmiss] at hstatus
    · rw [hms]
      exact (fillStep_soon h hfit _).mono fun t ⟨_, _, hne⟩ => by rw [hwb] at hne; cases hne

/-- With its call spent the access is served, settled, or waits for the next cycle's. -/
theorem dcacheAccess_spent_soon (h : s.Prompt n) :
    (dcacheAccess s op pa true).Soon fun t => t.Prompt n ∧ (t.settled ∨ ∃ q, t.ms = .dDeferred q) := by
  unfold dcacheAccess
  split
  · exact (serveHit_spent_soon h).mono fun t ⟨hprompt, hms, _⟩ => ⟨hprompt, .inl (.inl hms)⟩
  · exact ⟨h.congr rfl rfl, .inr ⟨_, rfl⟩⟩

/-! ### A cycle of the memory stage -/

variable {va : Word} {size : AccessSize} {mout : PAddr → List (Option Byte) → WLatch} {pc : Word}

/-- An access in `M` is a data-side access (R380). -/
theorem memoryStage_access (hva : s.m.access = some (va, size)) :
    ∃ op pc mout, s.asks op ∧ s.m.access = some (va, op.size) ∧ memoryStage s = dataAccess s op pc va mout := by
  unfold memoryStage
  cases hm : s.m with
  | load pc rd va' size' signed =>
    rw [hm] at hva
    cases hva
    exact ⟨.load size, pc, _, ⟨_, _, _, _, hm⟩, rfl, rfl⟩
  | store pc va' size' value =>
    rw [hm] at hva
    cases hva
    exact ⟨.store size value, pc, _, ⟨_, _, hm⟩, rfl, rfl⟩
  | bubble | reg | noEffect | token => rw [hm] at hva; cases hva

theorem dataAccess_of_address (hal : misalignedData va op.size = false) (hpa : s.ms.address = some pa) :
    dataAccess s op pc va mout = (dcacheAccess s op pa false).toMem (mout pa) := by
  rw [dataAccess, hal, if_neg Bool.false_ne_true]
  cases hms : s.ms <;> rw [hms] at hpa <;> cases hpa <;> rfl

/-- The walk the data side begins or goes on with. -/
theorem dataAccess_of_walk (hal : misalignedData va op.size = false) (hpa : s.ms.address = none) :
    ∃ walk, dataAccess s op pc va mout = translateAndAccess s op pc va walk mout ∧
      (((walk.getD (.first, false)).1 = .first ∧ ∀ issued, s.ms ≠ .dTlb .second issued) ∨
        (walk.getD (.first, false)).1 = .second ∧ ∃ issued, s.ms = .dTlb .second issued) := by
  rw [dataAccess, hal, if_neg Bool.false_ne_true]
  cases hms : s.ms with
  | idle => exact ⟨none, rfl, .inl ⟨rfl, nofun⟩⟩
  | dTlb step issued =>
    cases step with
    | first => exact ⟨some (.first, issued), rfl, .inl ⟨rfl, nofun⟩⟩
    | second => exact ⟨some (.second, issued), rfl, .inr ⟨rfl, issued, rfl⟩⟩
  | dDeferred | dEvict | dFill | dWriteThrough => rw [hms] at hpa; cases hpa

/-- An access at its physical address completes, halts, or is settled. -/
theorem memoryStage_soon (h : s.Prompt (n + 1)) (hd : DataInv s) (hva : s.m.access = some (va, size))
    (hpa : s.ms.address = some pa) : (memoryStage s).Soon fun t => t.Prompt n ∧ t.settled := by
  obtain ⟨op, pc, mout, hop, hva', hm⟩ := memoryStage_access hva
  have hacc := State.accessAt_of_status hd.status hpa
  have hal : misalignedData va op.size = false := by
    simp only [State.accessAt, hva', Bool.and_eq_true, Bool.not_eq_true'] at hacc
    exact hacc.2
  rw [hm, dataAccess_of_address hal hpa]
  exact (dcacheAccess_soon h hd hop hacc (fun q hq => Option.some.inj (hq.symm.trans hpa))).toMem _

/-- A settled access completes or halts. -/
theorem memoryStage_settled (h : s.Prompt (n + 1)) (hd : DataInv s) (hva : s.m.access = some (va, size))
    (hset : s.settled) : (memoryStage s).Soon fun _ => False := by
  obtain ⟨op, pc, mout, hop, hva', hm⟩ := memoryStage_access hva
  obtain ⟨pa, hpa⟩ : ∃ pa, s.ms.address = some pa := by
    obtain ⟨q, issued, hms⟩ | ⟨⟨q, way, issued, hms⟩, -⟩ := hset <;> exact ⟨q, by rw [hms]; rfl⟩
  have hacc := State.accessAt_of_status hd.status hpa
  have hal : misalignedData va op.size = false := by
    simp only [State.accessAt, hva', Bool.and_eq_true, Bool.not_eq_true'] at hacc
    exact hacc.2
  rw [hm, dataAccess_of_address hal hpa]
  exact (dcacheAccess_settled h hd hop hacc (fun q hq => Option.some.inj (hq.symm.trans hpa)) hset).toMem _

/-! ### The walk -/

theorem level1Address_fits {ptbr : PAddr} (h : ptbr.toNat % 4 = 0) (sp : BitVec 18) :
    (level1Address ptbr sp).toNat + 4 ≤ 2 ^ 32 := by
  have := ptbr.isLt
  simp only [level1Address, BitVec.toNat_add, BitVec.toNat_mul, BitVec.toNat_ofNat]
  omega

theorem level2Address_fits (e : Word32) (sp : BitVec 18) : (level2Address e sp).toNat + 4 ≤ 2 ^ 32 := by
  simp only [level2Address, BitVec.toNat_add, BitVec.toNat_mul, BitVec.toNat_ofNat, BitVec.toNat_shiftLeft,
    Nat.shiftLeft_eq]
  omega

/-- What a cycle that begins without a physical address leaves: the access settled or deferred, or the walk at its second
step, if it was at its first. -/
def State.walked (s t : State) (va : Word) : Prop :=
  (t.settled ∨ ∃ q, t.ms = .dDeferred q) ∨
    (∀ issued, s.ms ≠ .dTlb .second issued) ∧ t.ms = .dTlb .second false ∧ t.tableClean (superpage va) = true

/-- A walk over a superpage whose entries are not stored to goes on, and does not stop. -/
theorem memoryStage_walks (h : s.Prompt (n + 1)) (hd : DataInv s) (hs : DataTrans s) (hva : s.m.access = some (va, size))
    (hptbr : s.ptbr.toNat % 4 = 0) (hclean : s.tableClean (superpage va) = true) (hpa : s.ms.address = none) :
    (memoryStage s).Soon fun t => t.Prompt n ∧ s.walked t va := by
  obtain ⟨op, pc, mout, hop, hva', hm⟩ := memoryStage_access hva
  rw [hm]
  cases hal : misalignedData va op.size with
  | true =>
    rw [dataAccess, hal]
    trivial
  | false =>
    have hacc : ∀ pa, samePageOffset pa va = true → s.accessAt pa = true := fun pa hoff => by
      simp [State.accessAt, hva', hoff, hal]
    have hnone : ∀ pa q, s.ms.address = some q → q = pa := fun pa q hq => by rw [hpa] at hq; cases hq
    obtain ⟨walk, hwalk, hstep⟩ := dataAccess_of_walk (s := s) (op := op) (pc := pc) (mout := mout) hal hpa
    rw [hwalk, translateAndAccess]
    obtain ⟨rest, hl, hprompt⟩ := h.answers
    obtain ⟨hfree1, hfree2⟩ : storedTouches s.stored (level1Address s.ptbr (superpage va)).toNat 4 = false ∧
        storedTouches s.stored (level2Address (s.pte1 (superpage va)) (superpage va)).toNat 4 = false := by
      simpa [State.tableClean] using hclean
    by_cases hit : s.tlbHits .data va
    · rw [translate_hit hit]
      exact ((dcacheAccess_soon h hd hop (hacc _ (samePageOffset_append _ va)) (hnone _)).mono
        fun t ⟨hprompt, hset⟩ => ⟨hprompt, .inl (.inl hset)⟩).toMem _
    obtain ⟨hstep, hne⟩ | ⟨hstep, issued, hms⟩ := hstep
    · rw [translate_first hit hstep hl hfree1 (h.size ▸ level1Address_fits hptbr _)]
      cases pteValid (s.pte1 (superpage va))
      · trivial
      · exact ⟨hprompt.congr rfl rfl, .inr ⟨hne, rfl, hclean⟩⟩
    · have hl2a := (hs.walk issued va size hms hva hfree1).2
      rw [translate_second hit hstep hl hl2a hfree2 (h.size ▸ level2Address_fits _ _)]
      cases pteValid (s.entryAt (level2Address (s.pte1 (superpage va)) (superpage va)))
      · trivial
      · rw [if_pos rfl]
        set u := (s.answered rest).setTlb .data _
        have hu : u.Prompt n := hprompt.congr rfl rfl
        exact ((dcacheAccess_spent_soon hu).mono fun t ⟨hprompt, hto⟩ => ⟨hprompt, .inl hto⟩).toMem _

/-! ### The cycles of an access -/

/-- The access in `M` completes or halts after at most `n` stall cycles. -/
def State.finishes : Nat → State → Prop
  | 0, s => (memoryStage s).Soon fun _ => False
  | n + 1, s => (memoryStage s).Soon fun t => State.finishes n { t with w := .bubble }

theorem State.finishes.succ (h : s.finishes n) : s.finishes (n + 1) := by
  induction n generalizing s with
  | zero => exact MemResult.Soon.imp h fun _ _ hf => hf.elim
  | succ n ih => exact MemResult.Soon.imp h fun _ _ ht => ih ht

theorem State.finishes.mono {k : Nat} (h : s.finishes k) (hk : k ≤ n) : s.finishes n := by
  induction hk with
  | refl => exact h
  | step _ ih => exact State.finishes.succ ih

/-- A consistent state with an access in `M`. -/
structure Accesses (s : State) (va : Word) (size : AccessSize) : Prop where
  data : DataInv s
  bytes : BytesInv s
  trans : DataTrans s
  access : s.m.access = some (va, size)
  ptbr : s.ptbr.toNat % 4 = 0

/-- A stall leaves the access in `M`, in a consistent state. -/
theorem Accesses.stall (h : Accesses s va size) (hm : memoryStage s = .stall t) :
    Accesses { t with w := .bubble } va size := by
  have hkeeps := memoryStage_keeps h.data
  have hgrows := memoryStage_grows h.data h.bytes
  have htrans := memoryStage_translates h.trans
  have hchange := memoryStage_changes s
  rw [hm] at hkeeps hgrows htrans hchange
  have hM : t.m = s.m := memoryStage_stall_m hm
  have hptbr : t.ptbr = s.ptbr := DataChange.ptbr_eq hchange
  obtain ⟨hbytes, hfollows⟩ : BytesInv t ∧ StoredFollows s t := by
    obtain hto | ⟨_, _, _, _, _, -, -, hto⟩ := hgrows <;> exact ⟨hto.inv, hto.follows⟩
  exact
    { data := hkeeps.1.of_sameDataSide ⟨rfl, rfl, rfl, rfl⟩ (.inl rfl)
      bytes := hbytes.congr rfl rfl rfl rfl
      trans := (TransOf.dataTrans htrans hM hfollows hptbr).follows (.of_eq rfl rfl) rfl
      access := (congrArg MLatch.access hM).trans h.access
      ptbr := (congrArg (fun a => a.toNat % 4) hptbr).trans h.ptbr }

theorem Accesses.finishes_of_settled (h : Accesses s va size) (hprompt : s.Prompt (n + 1)) (hset : s.settled) :
    s.finishes 0 := memoryStage_settled hprompt h.data h.access hset

theorem Accesses.finishes_of_address (h : Accesses s va size) (hprompt : s.Prompt (n + 2)) (hpa : s.ms.address = some pa) :
    s.finishes 1 :=
  (memoryStage_soon hprompt h.data h.access hpa).imp fun _ hm ⟨hnext, hset⟩ =>
    (h.stall hm).finishes_of_settled (hnext.congr rfl rfl) hset

/-- Settled or deferred, the access finishes after at most one more stall. -/
theorem Accesses.finishes_of_walked (h : Accesses s va size) (hprompt : s.Prompt (n + 2))
    (hto : s.settled ∨ ∃ q, s.ms = .dDeferred q) : s.finishes 1 := by
  obtain hset | ⟨q, hms⟩ := hto
  · exact State.finishes.succ (h.finishes_of_settled hprompt hset)
  · exact h.finishes_of_address hprompt (pa := q) (by rw [hms]; rfl)

theorem Accesses.finishes_of_second (h : Accesses s va size) (hprompt : s.Prompt (n + 3))
    (hclean : s.tableClean (superpage va) = true) {issued : Bool} (hms : s.ms = .dTlb .second issued) : s.finishes 2 :=
  (memoryStage_walks hprompt h.data h.trans h.access h.ptbr hclean (by rw [hms]; rfl)).imp fun t hm ⟨hnext, hto⟩ => by
    obtain hto | ⟨hne, -⟩ := hto
    · exact (h.stall hm).finishes_of_walked (hnext.congr rfl rfl) hto
    · exact absurd hms (hne issued)

theorem Accesses.finishes (h : Accesses s va size) (hprompt : s.Prompt (n + 4))
    (hclean : s.tableClean (superpage va) = true) : s.finishes 3 := by
  cases hpa : s.ms.address with
  | some pa => exact State.finishes.mono (h.finishes_of_address hprompt hpa) (by decide)
  | none =>
    refine (memoryStage_walks hprompt h.data h.trans h.access h.ptbr hclean hpa).imp fun t hm ⟨hnext, hto⟩ => ?_
    have hnext' : State.Prompt { t with w := .bubble } (n + 3) := hnext.congr rfl rfl
    obtain hto | ⟨-, hms, hclean'⟩ := hto
    · exact State.finishes.succ ((h.stall hm).finishes_of_walked hnext' hto)
    · exact (h.stall hm).finishes_of_second hnext' hclean' hms

theorem State.after_succ_of_step {u : State} (h : step s = .next u) (k : Nat) : s.after (k + 1) = u.after k := by
  induction k with
  | zero => simp [State.after, h]
  | succ k ih => rw [State.after, ih, State.after]

/-- The cycles of the stage are steps of the machine. -/
theorem State.finishes.after (h : s.writeback.finishes n) (hrun : s.running = true) :
    ∃ k t, k ≤ n ∧ s.after k = some t ∧
      (t.completesM ∨ ∃ u reason pc va, memoryStage t.writeback = .halt u reason pc va) := by
  induction n generalizing s with
  | zero =>
    unfold State.finishes at h
    cases hm : memoryStage s.writeback with
    | out u w spent => exact ⟨0, s, le_rfl, rfl, .inl ⟨hrun, _, _, _, hm⟩⟩
    | halt u reason pc va => exact ⟨0, s, le_rfl, rfl, .inr ⟨_, _, _, _, hm⟩⟩
    | stall u => rw [hm] at h; exact h.elim
    | stop x => rw [hm] at h; exact h.elim
  | succ n ih =>
    unfold State.finishes at h
    cases hm : memoryStage s.writeback with
    | out u w spent => exact ⟨0, s, Nat.zero_le _, rfl, .inl ⟨hrun, _, _, _, hm⟩⟩
    | halt u reason pc va => exact ⟨0, s, Nat.zero_le _, rfl, .inr ⟨_, _, _, _, hm⟩⟩
    | stop x => rw [hm] at h; exact h.elim
    | stall u =>
      rw [hm] at h
      have hchange := memoryStage_changes s.writeback
      rw [hm] at hchange
      have hstep := step_of_stall hrun hm
      have hrun' : State.running { u with w := .bubble } = true := by
        obtain ⟨_, _, _, _, _, _, _, _, _, rfl⟩ := hchange
        simpa [State.running] using hrun
      obtain ⟨k, t, hk, hafter, hend⟩ := ih (s := { u with w := .bubble }) h hrun'
      exact ⟨k + 1, t, Nat.succ_le_succ hk, (State.after_succ_of_step hstep k).trans hafter, hend⟩

end

/-- Settles O45: two cycles of the walk, one for a write-back or a fill, one for what is left. -/
theorem accessCompletes : Obligations.AccessCompletes := by
  intro s va size more hinv htrans hrun hva hsize hptbr hclean hlatency
  have hwb := State.writeback_bytesTo hinv.bytesInv
  have htable : s.writeback.tableClean (superpage va) = true := by
    simpa [State.tableClean, State.pte1, State.entryAt] using hclean
  have htrans' : DataTrans s.writeback := by
    have hto := (translationInv_iff.1 htrans).2.follows hwb.follows (by simp)
    unfold DataTrans
    simpa using hto
  have haccess : Accesses s.writeback va size :=
    { data := hinv.dataInv.writeback
      bytes := hwb.inv
      trans := htrans'
      access := by simpa using hva
      ptbr := by simpa using hptbr }
  have hprompt : s.writeback.Prompt (0 + 4) := ⟨by simpa using hsize, more, by simpa using hlatency⟩
  exact (haccess.finishes hprompt htable).after hrun

end Sys2Proof.Machine
